-- ==== Sys2Proof/Word.lean ====
section
/-! DEFINITION. The word types of the hardware and the register index (00_scope.md R5, 10_state.md R11). -/

namespace Sys2Proof

/-- An 8-bit value: a memory cell, a general register, a timer, the stack pointer (R5). -/
abbrev Byte := BitVec 8

/-- A 16-bit value: an instruction word, `I`, `PC`, a stack entry (R5). -/
abbrev Word := BitVec 16

/-- A general register's index, 0x0 to 0xF: "no register index ever exceeds 0xF" (R11). -/
abbrev Reg := Fin 16

/-- A sprite's number of rows, 0 to 15 (30_encoding.md R63). -/
abbrev Rows := Fin 16

/-- A 12-bit absolute address operand `nnn` (30_encoding.md R61). -/
abbrev Addr12 := BitVec 12

end Sys2Proof
end

