-- ==== Sys2Proof/Machine/Flags.lean ====
section
/-! DEFINITION. The flag values that instructions write to `VF` (10_state.md R12). There is no other condition state. The collision flag of `DRW` is
computed with the drawing (Ops.lean, `plot`). -/

namespace Sys2Proof.Machine

/-- A condition as the byte the hardware stores for it: 1 or 0. -/
def flagByte (c : Bool) : Byte := if c then 1 else 0

/-- The carry of an addition: 1 iff the true sum exceeds 255 (41_arith_logic.md R106, R113). -/
def carryFlag (a b : Byte) : Byte := flagByte (decide (a.toNat + b.toNat > 255))

/-- The no-borrow flag of `a - b`: 1 iff minuend ≥ subtrahend (R107, R109, R113). -/
def noBorrowFlag (a b : Byte) : Byte := flagByte (decide (a.toNat ≥ b.toNat))

/-- The bit that a right shift by one shifts out: bit 0 (R108). -/
def shiftRightFlag (a : Byte) : Byte := flagByte (a.getLsbD 0)

/-- The bit that a left shift by one shifts out: bit 7 (R110). -/
def shiftLeftFlag (a : Byte) : Byte := flagByte (a.getLsbD 7)

/-- The flag of `ADD I,Vx`: 1 iff the untruncated sum exceeds 0xFFF (44_index_memory.md R141). -/
def indexFlag (i : Word) (a : Byte) : Byte := flagByte (decide (i.toNat + a.toNat > 0xFFF))

end Sys2Proof.Machine
end

