-- ==== Sys2Proof/Config.lean ====
section
/-! DEFINITION. The sizes and constants of the hardware (00_scope.md R5), and its open values: the two draws as constants
without a body, the glyph table as the default of a parameter. -/

namespace Sys2Proof.Config

/-- `MEM_SIZE`: 4096 cells, addresses 0x000 to 0xFFF (R5, 20_memory.md R40). -/
abbrev memSize : Nat := 4096

/-- `STACK_DEPTH`: 16 return addresses (R5, 10_state.md R15). -/
abbrev stackDepth : Nat := 16

/-- `SP_EMPTY`: the stack pointer's value when the stack is empty (R5, 10_state.md R16). -/
abbrev spEmpty : Byte := 0xFF#8

/-- The stack pointer's value when all 16 entries are in use (10_state.md R16, 60_exceptions.md R153). -/
abbrev spFull : Byte := 0x0F#8

/-- `FB_W`: 64 columns (R5). -/
abbrev fbWidth : Nat := 64

/-- `FB_CELLS`: 2048 cells (R5). -/
abbrev fbCells : Nat := 2048

/-- `GLYPH_SIZE`: 80 bytes at 0x000 to 0x04F (R5). -/
abbrev glyphSize : Nat := 80

/-- `GLYPH_STRIDE`: 5 bytes a glyph (R5). -/
abbrev glyphStride : Nat := 5

/-- `PROG_BASE`: where a program is loaded (R5). -/
abbrev progBase : Nat := 0x200

/-- `PROG_MAX`: the longest program image, 3584 bytes (R5). -/
abbrev progMax : Nat := 3584

/-- `RESET_PC`: the fixed entry point (R5, 70_reset_and_hazards.md R183). -/
abbrev resetPc : Word := 0x200#16

/-- FREE VALUE `rnd` (R5, 10_state.md R25, R27): the byte that the random instruction draws in the step whose number is the argument.
"A free value the model places under no law": no body, so nothing can be proved of it. DESIGN CHOICE, notes/assumptions/1.md. -/
opaque rnd : Nat → Byte

/-- FREE VALUE behind `KEY_PICK` (R5, 43_keys_timers.md R133): which of the pressed keys `LD Vx,K` reports when several are pressed, as
a draw of the step whose number is the first argument, for the key bits of the second. DESIGN CHOICE, notes/assumptions/2.md. -/
opaque keyPick : Nat → BitVec 16 → Nat

/-- `GLYPH_TABLE` (R5, 20_memory.md R43): the default of the parameter, glyphs 0 to F of five rows each. Bytes 0 to 4 (glyph "0") are the
source's; the other 75 are PRESUMED (the standard CHIP-8 font, as R43 gives it), notes/assumptions/3.md. -/
def glyphTable : Vector Byte 80 := #v[
  0xF0#8, 0x90#8, 0x90#8, 0x90#8, 0xF0#8,  -- 0
  0x20#8, 0x60#8, 0x20#8, 0x20#8, 0x70#8,  -- 1
  0xF0#8, 0x10#8, 0xF0#8, 0x80#8, 0xF0#8,  -- 2
  0xF0#8, 0x10#8, 0xF0#8, 0x10#8, 0xF0#8,  -- 3
  0x90#8, 0x90#8, 0xF0#8, 0x10#8, 0x10#8,  -- 4
  0xF0#8, 0x80#8, 0xF0#8, 0x10#8, 0xF0#8,  -- 5
  0xF0#8, 0x80#8, 0xF0#8, 0x90#8, 0xF0#8,  -- 6
  0xF0#8, 0x10#8, 0x20#8, 0x40#8, 0x40#8,  -- 7
  0xF0#8, 0x90#8, 0xF0#8, 0x90#8, 0xF0#8,  -- 8
  0xF0#8, 0x90#8, 0xF0#8, 0x10#8, 0xF0#8,  -- 9
  0xF0#8, 0x90#8, 0xF0#8, 0x90#8, 0x90#8,  -- A
  0xE0#8, 0x90#8, 0xE0#8, 0x90#8, 0xE0#8,  -- B
  0xF0#8, 0x80#8, 0x80#8, 0x80#8, 0xF0#8,  -- C
  0xE0#8, 0x90#8, 0x90#8, 0x90#8, 0xE0#8,  -- D
  0xF0#8, 0x80#8, 0xF0#8, 0x80#8, 0xF0#8,  -- E
  0xF0#8, 0x80#8, 0xF0#8, 0x80#8, 0x80#8]  -- F

end Sys2Proof.Config
end

