-- ==== Sys2Proof/Syntax.lean ====
section
/-! DEFINITION. The instruction set as syntax: one constructor for each of the 34 rows of 30_encoding.md R65, in the table's order.
Operand types have exactly the widths of the fields (R61), so no constructor can hold an operand that no word encodes. -/

namespace Sys2Proof

/-- The 34 instruction forms (R65). `shr` and `shl` keep the don't-care field `y` (R67), so that a word's instruction says
every bit of the word. -/
inductive Instr where
  | cls
  | ret
  | jp (nnn : Addr12)
  | call (nnn : Addr12)
  | seImm (x : Reg) (kk : Byte)
  | sneImm (x : Reg) (kk : Byte)
  | seReg (x y : Reg)
  | ldImm (x : Reg) (kk : Byte)
  | addImm (x : Reg) (kk : Byte)
  | ldReg (x y : Reg)
  | or (x y : Reg)
  | and (x y : Reg)
  | xor (x y : Reg)
  | addReg (x y : Reg)
  | sub (x y : Reg)
  | shr (x y : Reg)
  | subn (x y : Reg)
  | shl (x y : Reg)
  | sneReg (x y : Reg)
  | ldI (nnn : Addr12)
  | jpV0 (nnn : Addr12)
  | rnd (x : Reg) (kk : Byte)
  | drw (x y : Reg) (n : Rows)
  | skp (x : Reg)
  | sknp (x : Reg)
  | ldVxDT (x : Reg)
  | ldVxK (x : Reg)
  | ldDTVx (x : Reg)
  | ldSTVx (x : Reg)
  | addI (x : Reg)
  | ldF (x : Reg)
  | ldB (x : Reg)
  | storeRegs (x : Reg)
  | loadRegs (x : Reg)
  deriving DecidableEq, Repr

/-- One row of the opcode map (R65): a word `w` selects the row iff `w AND mask = pattern`. -/
structure OpRow where
  mnemonic : String
  mask     : Word
  pattern  : Word
  deriving DecidableEq, Repr

end Sys2Proof
end

