-- ==== Sys2Proof/WellFormed.lean ====
section
/-! DEFINITION. The checks of well-formedness: of an instruction, of a row of the opcode map and of the whole map (30_encoding.md R65), and of a
program image (70_reset_and_hazards.md R181). -/

namespace Sys2Proof

/-- An instruction is well-formed when each operand fits its field: a register index and a row count in 4 bits, `kk` in 8, `nnn`
in 12 (30_encoding.md R61). The operand types of `Instr` have these widths, so every term of `Instr` passes; what the fields must fit is
written out here all the same, and an operand given as a number is checked by `operandFits`. -/
def operandFits (width v : Nat) : Bool := decide (v < 2 ^ width)

/-- Every operand of the instruction fits its field (R61). -/
def Instr.wellFormed : Instr → Bool
  | .cls | .ret => true
  | .jp nnn | .call nnn | .ldI nnn | .jpV0 nnn => operandFits 12 nnn.toNat
  | .seImm x kk | .sneImm x kk | .ldImm x kk | .addImm x kk | .rnd x kk => operandFits 4 x.val && operandFits 8 kk.toNat
  | .seReg x y | .sneReg x y | .ldReg x y | .or x y | .and x y | .xor x y | .addReg x y | .sub x y | .shr x y | .subn x y | .shl x y =>
    operandFits 4 x.val && operandFits 4 y.val
  | .drw x y n => operandFits 4 x.val && operandFits 4 y.val && operandFits 4 n.val
  | .skp x | .sknp x | .ldVxDT x | .ldVxK x | .ldDTVx x | .ldSTVx x | .addI x | .ldF x | .ldB x | .storeRegs x | .loadRegs x =>
    operandFits 4 x.val

/-- A word selects a row (R65). -/
def OpRow.selects (r : OpRow) (w : Word) : Bool := w &&& r.mask == r.pattern

/-- A row is well-formed when its pattern has no bit outside its mask: otherwise no word selects it. -/
def OpRow.wellFormed (r : OpRow) : Bool := r.pattern &&& r.mask == r.pattern

/-- Two rows overlap when some word selects both: their patterns agree on the bits that both masks fix. -/
def OpRow.overlaps (r q : OpRow) : Bool := r.pattern &&& (r.mask &&& q.mask) == q.pattern &&& (r.mask &&& q.mask)

/-- An opcode map is well-formed when every row is and "no two rows overlap" (R65). -/
def tableWellFormed : List OpRow → Bool
  | [] => true
  | r :: rest => r.wellFormed && rest.all (fun q => !r.overlaps q) && tableWellFormed rest

/-- A program image is well-formed when it fits memory from 0x200 up (R181: at most 3584 bytes). -/
def imageWellFormed (bytes : List Byte) : Bool := decide (bytes.length ≤ Config.progMax)

end Sys2Proof
end

