-- ==== Sys2Proof/Decode.lean ====
section
/-! DEFINITION. The fields of an instruction word, the decoder, the encoder and the opcode map (30_encoding.md R60 to R68). -/

namespace Sys2Proof

/-! ## Fields (R61) -/

/-- `op = w[15:12]`, the top nibble. -/
def fieldOp (w : Word) : Nat := (w.extractLsb' 12 4).toNat

/-- `x = w[11:8]`. -/
def fieldX (w : Word) : Reg := (w.extractLsb' 8 4).toFin

/-- `y = w[7:4]`. -/
def fieldY (w : Word) : Reg := (w.extractLsb' 4 4).toFin

/-- `n = w[3:0]`. -/
def fieldN (w : Word) : Rows := (w.extractLsb' 0 4).toFin

/-- `kk = w[7:0]`. -/
def fieldKK (w : Word) : Byte := w.extractLsb' 0 8

/-- `nnn = w[11:0]`. -/
def fieldNNN (w : Word) : Addr12 := w.extractLsb' 0 12

/-! ## The decoder (R64) -/

/-- The major opcode 8: the nine register-to-register forms by minor opcode `n`, every other minor unknown (R64, R66). -/
def decode8 (w : Word) : Option Instr :=
  let x := fieldX w
  let y := fieldY w
  match (fieldN w).val with
  | 0x0 => some (.ldReg x y)
  | 0x1 => some (.or x y)
  | 0x2 => some (.and x y)
  | 0x3 => some (.xor x y)
  | 0x4 => some (.addReg x y)
  | 0x5 => some (.sub x y)
  | 0x6 => some (.shr x y)
  | 0x7 => some (.subn x y)
  | 0xE => some (.shl x y)
  | _   => none

/-- The major opcode F: the nine forms by minor opcode `kk`, every other minor unknown (R64, R66). -/
def decodeF (w : Word) : Option Instr :=
  let x := fieldX w
  match (fieldKK w).toNat with
  | 0x07 => some (.ldVxDT x)
  | 0x0A => some (.ldVxK x)
  | 0x15 => some (.ldDTVx x)
  | 0x18 => some (.ldSTVx x)
  | 0x1E => some (.addI x)
  | 0x29 => some (.ldF x)
  | 0x33 => some (.ldB x)
  | 0x55 => some (.storeRegs x)
  | 0x65 => some (.loadRegs x)
  | _    => none

/-- The instruction that a word is, or `none` for an unknown word: the decision tree of R64, by the top nibble and then by the exact
minor opcode. -/
def decodeWord (w : Word) : Option Instr :=
  let x := fieldX w
  let y := fieldY w
  let kk := fieldKK w
  let nnn := fieldNNN w
  match fieldOp w with
  | 0x0 => if w = 0x00E0#16 then some .cls else if w = 0x00EE#16 then some .ret else none
  | 0x1 => some (.jp nnn)
  | 0x2 => some (.call nnn)
  | 0x3 => some (.seImm x kk)
  | 0x4 => some (.sneImm x kk)
  | 0x5 => if fieldN w = 0 then some (.seReg x y) else none
  | 0x6 => some (.ldImm x kk)
  | 0x7 => some (.addImm x kk)
  | 0x8 => decode8 w
  | 0x9 => if fieldN w = 0 then some (.sneReg x y) else none
  | 0xA => some (.ldI nnn)
  | 0xB => some (.jpV0 nnn)
  | 0xC => some (.rnd x kk)
  | 0xD => some (.drw x y (fieldN w))
  | 0xE => if kk = 0x9E#8 then some (.skp x) else if kk = 0xA1#8 then some (.sknp x) else none
  | 0xF => decodeF w
  | _   => none

/-- Why a sequence of bytes is no instruction: too few bytes for a word, or a word that matches no row (R66). -/
inductive DecodeError where
  | truncated
  | unknownInstruction (w : Word)
  deriving DecidableEq, Repr

/-- The big-endian word of two bytes, the first at the lower address: `{hi, lo}` (20_memory.md R44). -/
def wordOfBytes (hi lo : Byte) : Word := hi ++ lo

/-- The decoder on bytes as memory holds them: the first instruction and the bytes after it, or why there is none (R60, R66). Every
instruction has two bytes (R60, R68). -/
def decodeBytes : List Byte → Except DecodeError (Instr × List Byte)
  | hi :: lo :: rest =>
    match decodeWord (wordOfBytes hi lo) with
    | some i => .ok (i, rest)
    | none   => .error (.unknownInstruction (wordOfBytes hi lo))
  | _ => .error .truncated

/-! ## The encoder (R62, R65) -/

/-- A nibble operand as four bits. -/
def nibble (k : Fin 16) : BitVec 4 := BitVec.ofFin k

/-- Format A: `op nnn`. -/
def formatA (op : BitVec 4) (nnn : Addr12) : Word := op ++ nnn

/-- Format XK: `op x kk`; format X is the same with a fixed `kk`. -/
def formatXK (op : BitVec 4) (x : Reg) (kk : Byte) : Word := op ++ nibble x ++ kk

/-- Format XYN: `op x y n`; format XY is the same with a fixed `n`. -/
def formatXYN (op : BitVec 4) (x y : Reg) (n : Rows) : Word := op ++ nibble x ++ nibble y ++ nibble n

/-- The word of an instruction (R65). -/
def encode : Instr → Word
  | .cls         => 0x00E0#16
  | .ret         => 0x00EE#16
  | .jp nnn      => formatA 0x1 nnn
  | .call nnn    => formatA 0x2 nnn
  | .seImm x kk  => formatXK 0x3 x kk
  | .sneImm x kk => formatXK 0x4 x kk
  | .seReg x y   => formatXYN 0x5 x y 0x0
  | .ldImm x kk  => formatXK 0x6 x kk
  | .addImm x kk => formatXK 0x7 x kk
  | .ldReg x y   => formatXYN 0x8 x y 0x0
  | .or x y      => formatXYN 0x8 x y 0x1
  | .and x y     => formatXYN 0x8 x y 0x2
  | .xor x y     => formatXYN 0x8 x y 0x3
  | .addReg x y  => formatXYN 0x8 x y 0x4
  | .sub x y     => formatXYN 0x8 x y 0x5
  | .shr x y     => formatXYN 0x8 x y 0x6
  | .subn x y    => formatXYN 0x8 x y 0x7
  | .shl x y     => formatXYN 0x8 x y 0xE
  | .sneReg x y  => formatXYN 0x9 x y 0x0
  | .ldI nnn     => formatA 0xA nnn
  | .jpV0 nnn    => formatA 0xB nnn
  | .rnd x kk    => formatXK 0xC x kk
  | .drw x y n   => formatXYN 0xD x y n
  | .skp x       => formatXK 0xE x 0x9E
  | .sknp x      => formatXK 0xE x 0xA1
  | .ldVxDT x    => formatXK 0xF x 0x07
  | .ldVxK x     => formatXK 0xF x 0x0A
  | .ldDTVx x    => formatXK 0xF x 0x15
  | .ldSTVx x    => formatXK 0xF x 0x18
  | .addI x      => formatXK 0xF x 0x1E
  | .ldF x       => formatXK 0xF x 0x29
  | .ldB x       => formatXK 0xF x 0x33
  | .storeRegs x => formatXK 0xF x 0x55
  | .loadRegs x  => formatXK 0xF x 0x65

/-- The high and the low byte of a word: `w[15:8]`, `w[7:0]`. -/
def hiByte (w : Word) : Byte := w.extractLsb' 8 8

/-- See `hiByte`. -/
def loByte (w : Word) : Byte := w.extractLsb' 0 8

/-- A word as memory holds it, the high byte at the lower address (20_memory.md R44). -/
def bytesOfWord (w : Word) : List Byte := [hiByte w, loByte w]

/-! ## The opcode map (R65) -/

/-- The 34 rows of R65, in its order; the mnemonics are spelled as spec/opcode_table.json spells them. -/
def opTable : List OpRow :=
  [⟨"CLS", 0xFFFF, 0x00E0⟩, ⟨"RET", 0xFFFF, 0x00EE⟩, ⟨"JP_nnn", 0xF000, 0x1000⟩, ⟨"CALL_nnn", 0xF000, 0x2000⟩,
   ⟨"SE_Vx_kk", 0xF000, 0x3000⟩, ⟨"SNE_Vx_kk", 0xF000, 0x4000⟩, ⟨"SE_Vx_Vy", 0xF00F, 0x5000⟩] ++
  [⟨"LD_Vx_kk", 0xF000, 0x6000⟩, ⟨"ADD_Vx_kk", 0xF000, 0x7000⟩, ⟨"LD_Vx_Vy", 0xF00F, 0x8000⟩, ⟨"OR_Vx_Vy", 0xF00F, 0x8001⟩,
   ⟨"AND_Vx_Vy", 0xF00F, 0x8002⟩, ⟨"XOR_Vx_Vy", 0xF00F, 0x8003⟩, ⟨"ADD_Vx_Vy", 0xF00F, 0x8004⟩, ⟨"SUB_Vx_Vy", 0xF00F, 0x8005⟩,
   ⟨"SHR_Vx", 0xF00F, 0x8006⟩, ⟨"SUBN_Vx_Vy", 0xF00F, 0x8007⟩, ⟨"SHL_Vx", 0xF00F, 0x800E⟩] ++
  [⟨"SNE_Vx_Vy", 0xF00F, 0x9000⟩, ⟨"LD_I_nnn", 0xF000, 0xA000⟩, ⟨"JP_V0_nnn", 0xF000, 0xB000⟩, ⟨"RND_Vx_kk", 0xF000, 0xC000⟩,
   ⟨"DRW_Vx_Vy_n", 0xF000, 0xD000⟩, ⟨"SKP_Vx", 0xF0FF, 0xE09E⟩, ⟨"SKNP_Vx", 0xF0FF, 0xE0A1⟩] ++
  [⟨"LD_Vx_DT", 0xF0FF, 0xF007⟩, ⟨"LD_Vx_K", 0xF0FF, 0xF00A⟩, ⟨"LD_DT_Vx", 0xF0FF, 0xF015⟩, ⟨"LD_ST_Vx", 0xF0FF, 0xF018⟩,
   ⟨"ADD_I_Vx", 0xF0FF, 0xF01E⟩, ⟨"LD_F_Vx", 0xF0FF, 0xF029⟩, ⟨"LD_B_Vx", 0xF0FF, 0xF033⟩, ⟨"LD__I__Vx", 0xF0FF, 0xF055⟩,
   ⟨"LD_Vx__I", 0xF0FF, 0xF065⟩]

/-- The mnemonic of an instruction's row (R65). -/
def mnemonicOf : Instr → String
  | .cls => "CLS" | .ret => "RET" | .jp _ => "JP_nnn" | .call _ => "CALL_nnn"
  | .seImm _ _ => "SE_Vx_kk" | .sneImm _ _ => "SNE_Vx_kk" | .seReg _ _ => "SE_Vx_Vy"
  | .ldImm _ _ => "LD_Vx_kk" | .addImm _ _ => "ADD_Vx_kk" | .ldReg _ _ => "LD_Vx_Vy"
  | .or _ _ => "OR_Vx_Vy" | .and _ _ => "AND_Vx_Vy" | .xor _ _ => "XOR_Vx_Vy"
  | .addReg _ _ => "ADD_Vx_Vy" | .sub _ _ => "SUB_Vx_Vy" | .shr _ _ => "SHR_Vx"
  | .subn _ _ => "SUBN_Vx_Vy" | .shl _ _ => "SHL_Vx" | .sneReg _ _ => "SNE_Vx_Vy"
  | .ldI _ => "LD_I_nnn" | .jpV0 _ => "JP_V0_nnn" | .rnd _ _ => "RND_Vx_kk" | .drw _ _ _ => "DRW_Vx_Vy_n"
  | .skp _ => "SKP_Vx" | .sknp _ => "SKNP_Vx" | .ldVxDT _ => "LD_Vx_DT" | .ldVxK _ => "LD_Vx_K"
  | .ldDTVx _ => "LD_DT_Vx" | .ldSTVx _ => "LD_ST_Vx" | .addI _ => "ADD_I_Vx" | .ldF _ => "LD_F_Vx"
  | .ldB _ => "LD_B_Vx" | .storeRegs _ => "LD__I__Vx" | .loadRegs _ => "LD_Vx__I"

/-! ## The table's words -/

/-- The instruction the decoder reads from an instruction word given as the opcode table numbers its bits (bit 0 the least significant bit of
the first 16-bit word, bits from `nbits` up zero), laid out big-endian as memory holds it. -/
def decodeTableWord (nbits w : Nat) : Option Instr :=
  match decodeBytes (bytesOfWord (BitVec.ofNat 16 (w % 2 ^ nbits))) with
  | .ok (i, _) => some i
  | .error _   => none

end Sys2Proof
end

