-- ==== Sys2Proof/Machine/State.lean ====
section
/-! DEFINITION. The machine's state as plain data (10_state.md R10, R27, R28; 60_exceptions.md R150, R172), why a step can stop, and the
state after reset. -/

namespace Sys2Proof.Machine

/-- Why a step stops with no next state. One reason only: every condition the spec names is a diagnostic after which the hardware goes on
(60_exceptions.md R150 to R157), not a stop. -/
inductive Fault where
  /-- Raised by `RET` and `CALL` when `SP` holds a value outside its legal set (0xFF and 0x00 to 0x0F), for which no rule gives an effect
  (10_state.md R16: "`SP` never leaves the legal set"). Safe: no run from reset reaches such a state, and nothing is claimed after the stop. -/
  | stackPointerIllegal
  deriving DecidableEq, Repr

/-- Why an instruction has no meaning. -/
inductive Refusal where
  /-- Raised by `exec`'s arm of an instruction that has no meaning yet; safe. No arm of this model raises it. -/
  | notModelled (mnemonic : String)
  deriving DecidableEq, Repr

/-- The causes a step can report (60_exceptions.md R150), codes 1 to 6 in order. -/
inductive Cause where
  | unknownInstruction
  | stackOverflow
  | stackUnderflow
  | fetchBounds
  | memBounds
  | keyIndexBounds
  deriving DecidableEq, Repr

/-- A diagnostic: the record `(cause, word, pc)` (R150). -/
structure Diag where
  cause : Cause
  word  : Word
  pc    : Word
  deriving DecidableEq, Repr

/-- The outputs of a step (10_state.md R27). -/
structure StepOutput where
  diag        : Option Diag
  renderEvent : Bool
  soundEvent  : Bool
  deriving DecidableEq, Repr

/-- The outputs of a step in which nothing was reported: `(none, 0, 0)` (30_encoding.md R72). -/
def StepOutput.quiet : StepOutput := { diag := none, renderEvent := false, soundEvent := false }

/-- The 4096 memory cells (20_memory.md R40). `glyphs` is the parameter `GLYPH_TABLE` (R43), which nothing writes; `cells` lists, by rising address, the
cells that differ from what reset left there, so that equal memories are equal data. -/
structure Memory where
  glyphs : Vector Byte 80
  cells  : List Host.Cell
  deriving DecidableEq, Repr

/-- The framebuffer: 32 rows of 64 one-bit cells, the cell of column `c` and row `r` in bit `c` of row `r`, 1 lit (10_state.md R19). -/
abbrev Framebuffer := Vector (BitVec 64) 32

/-- Machine State, the twelve items of 10_state.md R10 in its order, then three records of the model's own: the outputs of the
latest step, the sticky fault record of 60_exceptions.md R172, and the number of the step whose inputs come next. -/
structure State where
  /-- `mem` (R23). -/
  mem : Memory
  /-- `V[0]` to `V[0xF]` (R11). -/
  v : Vector Byte 16
  /-- `I`, the index register (R13). -/
  i : Word
  /-- `PC` (R14). -/
  pc : Word
  /-- `stack[0]` to `stack[15]` (R15). -/
  stack : Vector Word 16
  /-- `SP`: the index of the top entry, or 0xFF when the stack is empty (R16). -/
  sp : Byte
  /-- `DT`, the delay timer (R17). -/
  dt : Byte
  /-- `ST`, the sound timer (R18). -/
  st : Byte
  /-- `fb` (R19). -/
  fb : Framebuffer
  /-- `keys`: bit `k` is 1 while key `k` is held down (R20). -/
  keys : BitVec 16
  /-- `render_needed` (R21). -/
  renderNeeded : Bool
  /-- `sound_needed` (R22). -/
  soundNeeded : Bool
  /-- The model's record of the latest step's outputs (R27), notes/assumptions/4.md. -/
  out : StepOutput
  /-- The sticky fault record: the first diagnostic of the run, which nothing clears (60_exceptions.md R172), notes/assumptions/5.md. -/
  firstDiag : Option Diag
  /-- The number of the step whose free inputs come next: the argument of `Config.rnd` and `Config.keyPick`, notes/assumptions/1.md. -/
  stepNo : Nat
  deriving DecidableEq, Repr

/-- The state after reset (10_state.md R28, 70_reset_and_hazards.md R180); the three records of the model's own are empty (DESIGN CHOICE,
notes/assumptions/1.md, 4.md, 5.md). -/
def State.reset : State where
  mem          := { glyphs := Config.glyphTable, cells := [] }
  v            := Vector.replicate 16 0x00#8
  i            := 0x0000#16
  pc           := Config.resetPc
  stack        := Vector.replicate 16 0x0000#16
  sp           := Config.spEmpty
  dt           := 0x00#8
  st           := 0x00#8
  fb           := Vector.replicate 32 0#64
  keys         := 0#16
  renderNeeded := false
  soundNeeded  := false
  out          := StepOutput.quiet
  firstDiag    := none
  stepNo       := 0

end Sys2Proof.Machine
end

