-- ==== Sys2Proof/Machine/Ops.lean ====
section
/-! DEFINITION. The named operations over the state: memory, registers, the program counter, the call stack, the framebuffer, diagnostics, the fetch and
the tick. The hardware has no trap entry and no trap return (60_exceptions.md R160, R161); what stands for taking an exception is the squash. -/

namespace Sys2Proof.Machine

/-! ## Memory (20_memory.md) -/

/-- What a cell holds after reset, and so what an unlisted address reads as: the glyph table at 0x000 to 0x04F, 0x00 above it (R42, 10_state.md R28). -/
def Memory.initial (m : Memory) (a : Nat) : Byte := if h : a < 80 then m.glyphs[a] else 0x00#8

/-- The byte listed for an address, if one is. -/
def findCell : List Host.Cell → Nat → Option Byte
  | [], _ => none
  | c :: rest, a => if c.1 = a then some c.2 else findCell rest a

/-- `MemRead(addr, 1)` (R41): the byte at `addr`, or `none` where no cell exists (`addr > 0xFFF`). -/
def Memory.read (m : Memory) (a : Nat) : Option Byte :=
  if a < Config.memSize then some ((findCell m.cells a).getD (m.initial a)) else none

/-- The sorted list with the entry of address `a` replaced by `b`: put in for `some`, taken out for `none`. -/
def putCell : List Host.Cell → Nat → Option Byte → List Host.Cell
  | [], a, b => (b.map (a, ·)).toList
  | c :: rest, a, b =>
    if c.1 < a then c :: putCell rest a b
    else if c.1 = a then (b.map (a, ·)).toList ++ rest
    else (b.map (a, ·)).toList ++ c :: rest

/-- `MemWrite(addr, 1, v)` (R41), or `none` where no cell exists. The value that reset left at `addr` is not listed, so the list keeps its one form. -/
def Memory.write (m : Memory) (a : Nat) (b : Byte) : Option Memory :=
  if a < Config.memSize then
    some { m with cells := putCell m.cells a (if b = m.initial a then none else some b) }
  else none

/-- Addresses rise strictly from `lo`, exist, and no entry equals what its address reads as when unlisted. -/
def cellsWf (initial : Nat → Byte) : Nat → List Host.Cell → Bool
  | _, [] => true
  | lo, c :: rest => decide (lo ≤ c.1) && decide (c.1 < Config.memSize) && c.2 != initial c.1 && cellsWf initial (c.1 + 1) rest

/-- The memory is in its canonical form. -/
def Memory.wf (m : Memory) : Bool := cellsWf m.initial 0 m.cells

/-- The bytes at `a .. a+n-1`, or `none` if any of the addresses is above 0xFFF; no address is touched for `n = 0` (R41, 60_exceptions.md R156:
the addresses are natural numbers, with no wrap). -/
def Memory.readBlock (m : Memory) (a : Nat) : Nat → Option (List Byte)
  | 0 => some []
  | n + 1 =>
    match m.read a, Memory.readBlock m (a + 1) n with
    | some b, some bs => some (b :: bs)
    | _, _ => none

/-- The memory with the bytes stored at `a` upward, or `none` if any of the addresses is above 0xFFF: then nothing is written (60_exceptions.md R156).
The order of the single writes is not observable (R46). -/
def Memory.writeBlock (m : Memory) (a : Nat) : List Byte → Option Memory
  | [] => some m
  | b :: bs =>
    match Memory.writeBlock m (a + 1) bs with
    | some m' => m'.write a b
    | none => none

/-! ## General registers (10_state.md R11, R12) -/

/-- Register F, the flag register. -/
def vF : Reg := 15

/-- `V[x]`. -/
def State.getV (s : State) (x : Reg) : Byte := s.v[x.val]

/-- `V[x] <- b`. -/
def State.setV (s : State) (x : Reg) (b : Byte) : State := { s with v := s.v.set x.val b }

/-- The result to `V[x]`, then the flag to `V[0xF]`: with `x = 0xF` the flag is what stays (41_arith_logic.md R112). -/
def State.setResultAndFlag (s : State) (x : Reg) (result flag : Byte) : State := (s.setV x result).setV vF flag

/-! ## The program counter (10_state.md R14) -/

/-- `PC <- (PC + k) mod 2^16`. -/
def State.advance (s : State) (k : Word) : State := { s with pc := s.pc + k }

/-- The skip: `PC + 4` if the condition holds, else `PC + 2` (40_control_flow.md R88). -/
def State.skipIf (s : State) (c : Bool) : State := s.advance (if c then 4 else 2)

/-! ## Diagnostics (60_exceptions.md R150, R151, R172) -/

/-- The code of a cause (R150). -/
def Cause.code : Cause → Nat
  | .unknownInstruction => 1
  | .stackOverflow => 2
  | .stackUnderflow => 3
  | .fetchBounds => 4
  | .memBounds => 5
  | .keyIndexBounds => 6

/-- The step's diagnostic `(cause, word, pc = PC)`, and the sticky record, which the first one sets (R150, R172). -/
def State.report (s : State) (c : Cause) (w : Word) : State :=
  { s with
    out := { s.out with diag := some { cause := c, word := w, pc := s.pc } }
    firstDiag := s.firstDiag.or (some { cause := c, word := w, pc := s.pc }) }

/-- The squash: what every cause raised in the execute phase does. The cause is reported and `PC <- (PC + 2) mod 2^16`; "no other write of the execute
phase happens" (R151). There is no saved state and no handler (R160), and so no return (R161). -/
def State.squash (s : State) (c : Cause) (w : Word) : State := (s.report c w).advance 2

/-! ## The framebuffer (10_state.md R19) -/

/-- `fb[idx]`; there is no cell from 2048 up. -/
def Framebuffer.cell (fb : Framebuffer) (idx : Nat) : Bool :=
  if h : idx / 64 < 32 then fb[idx / 64].getLsbD (idx % 64) else false

/-- `fb[idx] <- fb[idx] XOR 1`. -/
def Framebuffer.toggle (fb : Framebuffer) (idx : Nat) : Framebuffer :=
  if h : idx / 64 < 32 then fb.set (idx / 64) (fb[idx / 64] ^^^ BitVec.twoPow 64 (idx % 64)) else fb

/-- Every cell 0. -/
def Framebuffer.dark : Framebuffer := Vector.replicate 32 0#64

/-- One sprite bit that is 1, at the flat index `idx`: in range it toggles the cell and tests it for a collision before the XOR, out of range it is
dropped (42_display.md R121). The pair is the framebuffer and `hit`. -/
def plot (d : Framebuffer × Bool) (idx : Nat) : Framebuffer × Bool :=
  if idx < Config.fbCells then (d.1.toggle idx, d.2 || d.1.cell idx) else d

/-- Columns 0 to `k - 1` of one sprite row at horizontal origin `vx` on screen row `y`; bit 7 is column 0, and the index is a natural number (R121). -/
def drawColumns (vx y : Nat) (b : Byte) : Nat → Framebuffer × Bool → Framebuffer × Bool
  | 0, d => d
  | k + 1, d =>
    let d' := drawColumns vx y b k d
    if b.getLsbD (7 - k) then plot d' (vx + k + y * Config.fbWidth) else d'

/-- The sprite's rows, top to bottom, the first on screen row `y` (R121). -/
def drawRows (vx : Nat) : Nat → List Byte → Framebuffer × Bool → Framebuffer × Bool
  | _, [], d => d
  | y, b :: rest, d => drawRows vx (y + 1) rest (drawColumns vx y b 8 d)

/-- The framebuffer was cleared or drawn on: `render_needed <- 1`, `render_event <- 1` (60_exceptions.md R166). -/
def State.display (s : State) (fb : Framebuffer) : State :=
  { s with fb := fb, renderNeeded := true, out := { s.out with renderEvent := true } }

/-! ## The phases of a step around the execute phase (30_encoding.md R72) -/

/-- The outputs before phase 1: `(none, 0, 0)`. -/
def State.clearOut (s : State) : State := { s with out := StepOutput.quiet }

/-- Phase 1: the big-endian word at `PC`, or `none` when `PC > 0xFFE` (R60). Any parity of `PC` will do (20_memory.md R45). -/
def fetch (s : State) : Option Word :=
  match s.mem.read s.pc.toNat, s.mem.read (s.pc.toNat + 1) with
  | some hi, some lo => some (wordOfBytes hi lo)
  | _, _ => none

/-- A failed fetch: the diagnostic is emitted and nothing else changes, "not even the timers" (60_exceptions.md R155). -/
def fetchFailed (s : State) : State := s.clearOut.report .fetchBounds 0x0000#16

/-- The state in which the execute phase runs. -/
def beforeExec (s : State) : State := s.clearOut

/-- A timer's decrement: by one while greater than zero (R164). -/
def countDown (t : Byte) : Byte := if t = 0 then 0 else t - 1

/-- Phase 4, the tick (60_exceptions.md R164, R165): both timers count down, and a sound timer that was exactly 1 raises sound-needed. -/
def tick (s : State) : State :=
  { s with
    dt := countDown s.dt
    st := countDown s.st
    soundNeeded := s.soundNeeded || s.st == 1
    out := { s.out with soundEvent := s.out.soundEvent || s.st == 1 } }

/-- What follows the execute phase in every step whose fetch succeeded: the tick; and the next step has inputs of its own (10_state.md R27). -/
def afterExec (s : State) : State := { tick s with stepNo := s.stepNo + 1 }

end Sys2Proof.Machine
end

