-- ==== Sys2Proof/Machine/Operands.lean ====
section
/-! DEFINITION. Operand forms: zero-extended immediates, the register block of the block transfers, the decimal digits, glyph addresses and the key
operands. -/

namespace Sys2Proof.Machine

/-- `zext_16(nnn)`: addresses are absolute, never scaled or sign-extended (30_encoding.md R63). -/
def zext16 (nnn : Addr12) : Word := nnn.setWidth 16

/-- `zext_16` of a register's byte. -/
def zextByte (b : Byte) : Word := b.setWidth 16

/-- The address of the glyph of `a`: `a * 5`, exact in 16 bits (44_index_memory.md R142, 20_memory.md R42). -/
def glyphAddr (a : Byte) : Word := BitVec.ofNat 16 (a.toNat * Config.glyphStride)

/-- The hundreds, tens and ones digits, most significant first (44_index_memory.md R143). -/
def bcdDigits (a : Byte) : List Byte :=
  [BitVec.ofNat 8 (a.toNat / 100), BitVec.ofNat 8 (a.toNat / 10 % 10), BitVec.ofNat 8 (a.toNat % 10)]

/-- The registers `V[0]` to `V[x]`, `V[0]` first (44_index_memory.md R144). -/
def State.regBlock (s : State) (x : Reg) : List Byte := s.v.toList.take (x.val + 1)

/-- Registers `V[k]`, `V[k+1]`, … written with the bytes of a list, in order (44_index_memory.md R145). -/
def setRegsFrom (v : Vector Byte 16) : Nat → List Byte → Vector Byte 16
  | _, [] => v
  | k, b :: bs => setRegsFrom (v.setIfInBounds k b) (k + 1) bs

/-- `keys[k] = 1` (10_state.md R20). -/
def State.keyDown (s : State) (k : Nat) : Bool := s.keys.getLsbD k

/-- The indices of the pressed keys, lowest first (43_keys_timers.md R133). -/
def pressedKeys (keys : BitVec 16) : List Nat := (List.range 16).filter (keys.getLsbD ·)

/-- `pick(keys)` of R133: the key that is reported when one is pressed, and when several are, a draw among the pressed ones (`KEY_PICK`,
notes/assumptions/2.md). -/
def pickKey (stepNo : Nat) (keys : BitVec 16) : Option Nat :=
  match pressedKeys keys with
  | [] => none
  | [k] => some k
  | ks => ks[Config.keyPick stepNo keys % ks.length]?

end Sys2Proof.Machine
end

