-- ==== Sys2Proof/Machine/Arith.lean ====
section
/-! DEFINITION. Arithmetic, logic, shifts and the random byte (41_arith_logic.md). Operands are read before any register is written, and the flag is
written after the result (R112). -/

namespace Sys2Proof.Machine

open Host (Outcome)

/-- The end of every instruction of this file: `PC <- (PC + 2) mod 2^16`. -/
def done (s : State) : Outcome State Fault Refusal := .next (s.advance 2)

/-- `LD Vx,kk` (R100). -/
def execLdImm (x : Reg) (kk : Byte) (s : State) : Outcome State Fault Refusal := done (s.setV x kk)

/-- `ADD Vx,kk` (R101): 8-bit wraparound, no carry flag. -/
def execAddImm (x : Reg) (kk : Byte) (s : State) : Outcome State Fault Refusal := done (s.setV x (s.getV x + kk))

/-- `LD Vx,Vy` (R102). -/
def execLdReg (x y : Reg) (s : State) : Outcome State Fault Refusal := done (s.setV x (s.getV y))

/-- `OR Vx,Vy` (R103). -/
def execOr (x y : Reg) (s : State) : Outcome State Fault Refusal := done (s.setV x (s.getV x ||| s.getV y))

/-- `AND Vx,Vy` (R104). -/
def execAnd (x y : Reg) (s : State) : Outcome State Fault Refusal := done (s.setV x (s.getV x &&& s.getV y))

/-- `XOR Vx,Vy` (R105). -/
def execXor (x y : Reg) (s : State) : Outcome State Fault Refusal := done (s.setV x (s.getV x ^^^ s.getV y))

/-- `ADD Vx,Vy` (R106). -/
def execAddReg (x y : Reg) (s : State) : Outcome State Fault Refusal :=
  done (s.setResultAndFlag x (s.getV x + s.getV y) (carryFlag (s.getV x) (s.getV y)))

/-- `SUB Vx,Vy` (R107): `V[x] - V[y]`. -/
def execSub (x y : Reg) (s : State) : Outcome State Fault Refusal :=
  done (s.setResultAndFlag x (s.getV x - s.getV y) (noBorrowFlag (s.getV x) (s.getV y)))

/-- `SHR Vx` (R108): logical, by one; the field `y` is not used (30_encoding.md R67). -/
def execShr (x : Reg) (s : State) : Outcome State Fault Refusal :=
  done (s.setResultAndFlag x (s.getV x >>> 1) (shiftRightFlag (s.getV x)))

/-- `SUBN Vx,Vy` (R109): `V[y] - V[x]`. -/
def execSubn (x y : Reg) (s : State) : Outcome State Fault Refusal :=
  done (s.setResultAndFlag x (s.getV y - s.getV x) (noBorrowFlag (s.getV y) (s.getV x)))

/-- `SHL Vx` (R110): by one; the field `y` is not used (30_encoding.md R67). -/
def execShl (x : Reg) (s : State) : Outcome State Fault Refusal :=
  done (s.setResultAndFlag x (s.getV x <<< 1) (shiftLeftFlag (s.getV x)))

/-- `RND Vx,kk` (R111): this step's random byte, a free value, under the mask. -/
def execRnd (x : Reg) (kk : Byte) (s : State) : Outcome State Fault Refusal := done (s.setV x (Config.rnd s.stepNo &&& kk))

end Sys2Proof.Machine
end

