-- ==== Sys2Proof/Machine/ControlFlow.lean ====
section
/-! DEFINITION. Control transfer: `RET`, `JP`, `CALL`, the register skips and `JP V0` (40_control_flow.md). -/

namespace Sys2Proof.Machine

open Host (Outcome)

/-- `RET` (R80): pops the return address and continues 2 after it; on the empty stack, `StackUnderflow` (R154). -/
def execRet (s : State) : Outcome State Fault Refusal :=
  if s.sp = Config.spEmpty then .next (s.squash .stackUnderflow (encode .ret))
  else if h : s.sp.toNat < 16 then .next { s with sp := s.sp - 1, pc := s.stack[s.sp.toNat] + 2 }
  else .fault .stackPointerIllegal

/-- `JP nnn` (R81). -/
def execJp (nnn : Addr12) (s : State) : Outcome State Fault Refusal := .next { s with pc := zext16 nnn }

/-- `CALL nnn` (R82): pushes the address of the `CALL` itself; with 16 entries in use, `StackOverflow` (R153). -/
def execCall (nnn : Addr12) (s : State) : Outcome State Fault Refusal :=
  if s.sp = Config.spFull then .next (s.squash .stackOverflow (encode (.call nnn)))
  else if h : (s.sp + 1).toNat < 16 then
    .next { s with sp := s.sp + 1, stack := s.stack.set (s.sp + 1).toNat s.pc, pc := zext16 nnn }
  else .fault .stackPointerIllegal

/-- `SE Vx,kk` (R83). -/
def execSeImm (x : Reg) (kk : Byte) (s : State) : Outcome State Fault Refusal := .next (s.skipIf (s.getV x == kk))

/-- `SNE Vx,kk` (R84). -/
def execSneImm (x : Reg) (kk : Byte) (s : State) : Outcome State Fault Refusal := .next (s.skipIf (s.getV x != kk))

/-- `SE Vx,Vy` (R85). -/
def execSeReg (x y : Reg) (s : State) : Outcome State Fault Refusal := .next (s.skipIf (s.getV x == s.getV y))

/-- `SNE Vx,Vy` (R86). -/
def execSneReg (x y : Reg) (s : State) : Outcome State Fault Refusal := .next (s.skipIf (s.getV x != s.getV y))

/-- `JP V0,nnn` (R87): the offset is always `V[0]`, and the sum is not reduced to 12 bits. -/
def execJpV0 (nnn : Addr12) (s : State) : Outcome State Fault Refusal :=
  .next { s with pc := zext16 nnn + zextByte (s.getV 0) }

end Sys2Proof.Machine
end

