-- ==== Sys2Proof/Machine/Display.lean ====
section
/-! DEFINITION. `CLS` and `DRW`, the only writers of the framebuffer (42_display.md). -/

namespace Sys2Proof.Machine

open Host (Outcome)

/-- `CLS` (R120). -/
def execCls (s : State) : Outcome State Fault Refusal := .next ((s.display Framebuffer.dark).advance 2)

/-- `DRW Vx,Vy,n` (R121): the sprite's bytes are read first (all of them, or `MemBounds`), drawn by exclusive or, and `VF` is written last. -/
def execDrw (x y : Reg) (n : Rows) (s : State) : Outcome State Fault Refusal :=
  match s.mem.readBlock s.i.toNat n.val with
  | none => .next (s.squash .memBounds (encode (.drw x y n)))
  | some sprite =>
    let drawn := drawRows (s.getV x).toNat (s.getV y).toNat sprite (s.fb, false)
    .next (((s.display drawn.1).setV vF (flagByte drawn.2)).advance 2)

end Sys2Proof.Machine
end

