-- ==== Sys2Proof/Machine/IndexMemory.lean ====
section
/-! DEFINITION. The index register and the memory transfers (44_index_memory.md). `I` is the base of every access and no access changes it (R146). -/

namespace Sys2Proof.Machine

open Host (Outcome)

/-- `LD I,nnn` (R140). -/
def execLdI (nnn : Addr12) (s : State) : Outcome State Fault Refusal := .next ({ s with i := zext16 nnn }.advance 2)

/-- `ADD I,Vx` (R141): modulo 2^16, and the flag from the untruncated sum, written last. -/
def execAddI (x : Reg) (s : State) : Outcome State Fault Refusal :=
  .next (({ s with i := s.i + zextByte (s.getV x) }.setV vF (indexFlag s.i (s.getV x))).advance 2)

/-- `LD F,Vx` (R142). -/
def execLdF (x : Reg) (s : State) : Outcome State Fault Refusal := .next ({ s with i := glyphAddr (s.getV x) }.advance 2)

/-- `LD B,Vx` (R143). -/
def execLdB (x : Reg) (s : State) : Outcome State Fault Refusal :=
  match s.mem.writeBlock s.i.toNat (bcdDigits (s.getV x)) with
  | none => .next (s.squash .memBounds (encode (.ldB x)))
  | some m => .next ({ s with mem := m }.advance 2)

/-- `LD [I],Vx` (R144). -/
def execStoreRegs (x : Reg) (s : State) : Outcome State Fault Refusal :=
  match s.mem.writeBlock s.i.toNat (s.regBlock x) with
  | none => .next (s.squash .memBounds (encode (.storeRegs x)))
  | some m => .next ({ s with mem := m }.advance 2)

/-- `LD Vx,[I]` (R145). -/
def execLoadRegs (x : Reg) (s : State) : Outcome State Fault Refusal :=
  match s.mem.readBlock s.i.toNat (x.val + 1) with
  | none => .next (s.squash .memBounds (encode (.loadRegs x)))
  | some bs => .next ({ s with v := setRegsFrom s.v 0 bs }.advance 2)

end Sys2Proof.Machine
end

