-- ==== Sys2Proof/Machine/KeysTimers.lean ====
section
/-! DEFINITION. Key queries, the key wait and the timer registers (43_keys_timers.md). -/

namespace Sys2Proof.Machine

open Host (Outcome)

/-- `SKP Vx` (R130): the whole byte is the index; above 15, `KeyIndexBounds` (60_exceptions.md R157). -/
def execSkp (x : Reg) (s : State) : Outcome State Fault Refusal :=
  if (s.getV x).toNat > 0x0F then .next (s.squash .keyIndexBounds (encode (.skp x)))
  else .next (s.skipIf (s.keyDown (s.getV x).toNat))

/-- `SKNP Vx` (R131). -/
def execSknp (x : Reg) (s : State) : Outcome State Fault Refusal :=
  if (s.getV x).toNat > 0x0F then .next (s.squash .keyIndexBounds (encode (.sknp x)))
  else .next (s.skipIf (!s.keyDown (s.getV x).toNat))

/-- `LD Vx,DT` (R132): the value before this step's tick. -/
def execLdVxDT (x : Reg) (s : State) : Outcome State Fault Refusal := .next ((s.setV x s.dt).advance 2)

/-- `LD Vx,K` (R133): a pressed key's index, or, with no key pressed, `PC` unchanged, so that the same word is fetched again. -/
def execLdVxK (x : Reg) (s : State) : Outcome State Fault Refusal :=
  match pickKey s.stepNo s.keys with
  | some k => .next ((s.setV x (BitVec.ofNat 8 k)).advance 2)
  | none => .next s

/-- `LD DT,Vx` (R134). -/
def execLdDTVx (x : Reg) (s : State) : Outcome State Fault Refusal := .next ({ s with dt := s.getV x }.advance 2)

/-- `LD ST,Vx` (R135). -/
def execLdSTVx (x : Reg) (s : State) : Outcome State Fault Refusal := .next ({ s with st := s.getV x }.advance 2)

end Sys2Proof.Machine
end

