-- ==== Sys2Proof/Machine/Step.lean ====
section
/-! DEFINITION. One step: fetch, decode, execute, tick (30_encoding.md R72). -/

namespace Sys2Proof.Machine

open Host (Outcome)

/-- Phase 3 for a decoded word: the instruction's meaning, or the squash of an unknown word (R66, 60_exceptions.md R152). -/
def executeWord (w : Word) (s : State) : Outcome State Fault Refusal :=
  match decodeWord w with
  | none => .next (s.squash .unknownInstruction w)
  | some i => exec i s

/-- One step (R72). A failed fetch ends the step at once, with no tick (60_exceptions.md R155). -/
def step (s : State) : Outcome State Fault Refusal :=
  match fetch s with
  | none => .next (fetchFailed s)
  | some w =>
    match executeWord w (beforeExec s) with
    | .next t => .next (afterExec t)
    | .fault r => .fault r
    | .refused r => .refused r

/-- The state with the instruction word `w` (its bits numbered as the opcode table numbers them, the bits from `nbits` up zero) stored at `PC`, where the next step fetches.
Where no word can be fetched at `PC` (above 0xFFE), `PC` is set to the entry point and the word is stored there. -/
def State.withFetchWord (s : State) (nbits w : Nat) : State :=
  let bytes := bytesOfWord (BitVec.ofNat 16 (w % 2 ^ nbits))
  match s.mem.writeBlock s.pc.toNat bytes with
  | some m => { s with mem := m }
  | none => { s with pc := Config.resetPc, mem := (s.mem.writeBlock Config.progBase bytes).getD s.mem }

end Sys2Proof.Machine
end

