-- ==== Sys2Proof/Machine/HostInterface.lean ====
section
/-! DEFINITION. What the host may do between two steps (70_reset_and_hazards.md R180, R181, R186): the complete list of host actions. -/

namespace Sys2Proof.Machine

open Host (Outcome)

/-- `Reset` (R180): the whole Machine State becomes the reset state, whatever it was. The glyph table is the machine's own constant; the sticky record
stays, since "nothing clears" it (60_exceptions.md R172), and the step number stays, since nothing may be assumed to repeat after a reset
(notes/assumptions/1.md, 5.md). -/
def hostReset (s : State) : State :=
  { State.reset with
    mem := { glyphs := s.mem.glyphs, cells := [] }
    firstDiag := s.firstDiag
    stepNo := s.stepNo }

/-- `Load(bytes)` (R181): `none` is `LoadError` (60_exceptions.md R158), with the state unchanged; else a reset and the image at 0x200. -/
def hostLoad (bytes : List Byte) (s : State) : Option State :=
  if imageWellFormed bytes then
    ((hostReset s).mem.writeBlock Config.progBase bytes).map fun m => { hostReset s with mem := m }
  else none

/-- `SetKeys(k)` (R186). -/
def hostSetKeys (k : BitVec 16) (s : State) : State := { s with keys := k }

/-- `AckRender` (R186). -/
def hostAckRender (s : State) : State := { s with renderNeeded := false }

/-- `AckSound` (R186). -/
def hostAckSound (s : State) : State := { s with soundNeeded := false }

/-- The host actions (R186). Not stepping is the absence of an action. -/
inductive HostAction where
  | reset
  | load (bytes : List Byte)
  | setKeys (k : BitVec 16)
  | readFramebuffer
  | readSignals
  | ackRender
  | ackSound
  | step
  deriving DecidableEq, Repr

/-- What the host gets from an action (R186). -/
inductive HostReply where
  | nothing
  | ok
  | loadError
  | framebuffer (fb : Framebuffer)
  | signals (renderNeeded soundNeeded : Bool)
  | stepped (out : StepOutput)
  deriving DecidableEq, Repr

/-- The code of `LoadError`, the seventh of the taxonomy, which no step raises (60_exceptions.md R150, R158). -/
def HostReply.loadErrorCode : Nat := 7

/-- One host action (R186): its effect on the state and its reply. -/
def act (a : HostAction) (s : State) : Outcome (State × HostReply) Fault Refusal :=
  match a with
  | .reset => .next (hostReset s, .nothing)
  | .load bytes =>
    match hostLoad bytes s with
    | some t => .next (t, .ok)
    | none => .next (s, .loadError)
  | .setKeys k => .next (hostSetKeys k s, .nothing)
  | .readFramebuffer => .next (s, .framebuffer s.fb)
  | .readSignals => .next (s, .signals s.renderNeeded s.soundNeeded)
  | .ackRender => .next (hostAckRender s, .nothing)
  | .ackSound => .next (hostAckSound s, .nothing)
  | .step =>
    match step s with
    | .next t => .next (t, .stepped t.out)
    | .fault r => .fault r
    | .refused r => .refused r

end Sys2Proof.Machine
end

