-- ==== Sys2Proof/Safety.lean ====
section
/-! DEFINITION. What a safe state and a safe run are, in the terms the statements use (10_state.md R29, 60_exceptions.md R172). -/

namespace Sys2Proof.Machine

/-- `SP` is 0xFF or in 0x00 to 0x0F (10_state.md R16, R29 item 1). -/
def State.spLegal (s : State) : Prop := s.sp = Config.spEmpty ∨ s.sp.toNat < Config.stackDepth

/-- The invariant of the reachable states (R29 items 1 and 3, with what item 3 rests on, that every stack entry is the address of a fetched `CALL`), and the memory's
canonical form. Items 2 and 4 of R29 hold by the types of the fields. -/
structure State.Inv (s : State) : Prop where
  memWf      : s.mem.wf = true
  spLegal    : s.spLegal
  pcBound    : s.pc.toNat ≤ 0x10FE
  stackBound : ∀ k : Fin 16, s.stack[k.val].toNat ≤ 0xFFE

/-- The states that host actions, steps among them, reach from reset. -/
inductive Reachable : State → Prop where
  | reset : Reachable State.reset
  | act {s t : State} {a : HostAction} {r : HostReply} (h : Reachable s) (ha : act a s = .next (t, r)) : Reachable t

/-- No diagnostic has been reported so far in the run: the premise that R172 asks of claims about programs. -/
def State.FaultFree (s : State) : Prop := s.firstDiag = none

/-! ## Frames: what stays unchanged between two states -/

/-- The items of Machine State (10_state.md R10) and the model's three records. -/
inductive Item where
  | mem | v | i | pc | stack | sp | dt | st | fb | keys | renderNeeded | soundNeeded | out | firstDiag | stepNo
  deriving DecidableEq, Repr

/-- Two states agree on an item; on memory, when every address reads the same. -/
def Same (s t : State) : Item → Prop
  | .mem          => ∀ a, t.mem.read a = s.mem.read a
  | .v            => ∀ x, t.getV x = s.getV x
  | .i            => t.i = s.i
  | .pc           => t.pc = s.pc
  | .stack        => ∀ k : Fin 16, t.stack[k.val] = s.stack[k.val]
  | .sp           => t.sp = s.sp
  | .dt           => t.dt = s.dt
  | .st           => t.st = s.st
  | .fb           => ∀ idx, t.fb.cell idx = s.fb.cell idx
  | .keys         => t.keys = s.keys
  | .renderNeeded => t.renderNeeded = s.renderNeeded
  | .soundNeeded  => t.soundNeeded = s.soundNeeded
  | .out          => t.out = s.out
  | .firstDiag    => t.firstDiag = s.firstDiag
  | .stepNo       => t.stepNo = s.stepNo

/-- Two states agree on every item but those listed. -/
def SameExcept (ks : List Item) (s t : State) : Prop := ∀ k, k ∉ ks → Same s t k

/-- Two states agree on every register but those listed. -/
def SameRegsExcept (xs : List Reg) (s t : State) : Prop := ∀ r, r ∉ xs → t.getV r = s.getV r

/-- `t` is `s` with its instruction squashed for the cause `c` (60_exceptions.md R151): the diagnostic is out, `PC` is 2 further, and no other item of
Machine State differs. (The sticky record that also takes the diagnostic is the one R172 asks for, notes/assumptions/5.md.) -/
structure Squashed (c : Cause) (w : Word) (s t : State) : Prop where
  pc          : t.pc = s.pc + 2
  diag        : t.out.diag = some { cause := c, word := w, pc := s.pc }
  renderEvent : t.out.renderEvent = s.out.renderEvent
  soundEvent  : t.out.soundEvent = s.out.soundEvent
  firstDiag   : t.firstDiag = s.firstDiag.or (some { cause := c, word := w, pc := s.pc })
  same        : SameExcept [.pc, .out, .firstDiag] s t

/-- `t` is `u` after the tick (60_exceptions.md R164, R165): each timer one lower unless it is 0, sound-needed and the sound event raised iff the sound
timer was exactly 1, and nothing else of Machine State different. (The model's step number is left open here: `Obligations.StepNumberCountsFetchedSteps`.) -/
structure Ticked (u t : State) : Prop where
  dt          : t.dt.toNat = u.dt.toNat - 1
  st          : t.st.toNat = u.st.toNat - 1
  soundNeeded : t.soundNeeded = true ↔ u.soundNeeded = true ∨ u.st = 1
  soundEvent  : t.out.soundEvent = true ↔ u.out.soundEvent = true ∨ u.st = 1
  diag        : t.out.diag = u.out.diag
  renderEvent : t.out.renderEvent = u.out.renderEvent
  same        : SameExcept [.dt, .st, .soundNeeded, .out, .stepNo] u t

/-! ## The tables of the spec that statements are checked against -/

/-- The condition column of 60_exceptions.md R150 for the causes that an instruction raises in its execute phase (R153, R154, R156, R157). -/
def faultCause (s : State) : Instr → Option Cause
  | .call _ => if s.sp = 0x0F#8 then some .stackOverflow else none
  | .ret => if s.sp = 0xFF#8 then some .stackUnderflow else none
  | .drw _ _ n => if n.val > 0 ∧ s.i.toNat + n.val - 1 > 0xFFF then some .memBounds else none
  | .ldB _ => if s.i.toNat + 2 > 0xFFF then some .memBounds else none
  | .storeRegs x | .loadRegs x => if s.i.toNat + x.val > 0xFFF then some .memBounds else none
  | .skp x | .sknp x => if (s.getV x).toNat > 0x0F then some .keyIndexBounds else none
  | .cls | .jp _ | .seImm _ _ | .sneImm _ _ | .seReg _ _ | .ldImm _ _ | .addImm _ _ | .ldReg _ _ | .or _ _ | .and _ _ | .xor _ _
  | .addReg _ _ | .sub _ _ | .shr _ _ | .subn _ _ | .shl _ _ | .sneReg _ _ | .ldI _ | .jpV0 _ | .rnd _ _ | .ldVxDT _ | .ldVxK _
  | .ldDTVx _ | .ldSTVx _ | .addI _ | .ldF _ => none

/-- The diagnostic of a step by the table of R150: the fetch first, then the decoder, then the instruction (R159). -/
def diagOf (s : State) : Option Diag :=
  if s.pc.toNat > 0xFFE then some { cause := .fetchBounds, word := 0x0000#16, pc := s.pc }
  else
    match fetch s with
    | none => none
    | some w =>
      match decodeWord w with
      | none => some { cause := .unknownInstruction, word := w, pc := s.pc }
      | some i => (faultCause s i).map fun c => { cause := c, word := w, pc := s.pc }

/-- The registers that an instruction's rule names as destinations; a flag register that it writes is not one (10_state.md R12). -/
def destinations : Instr → List Reg
  | .ldImm x _ | .addImm x _ | .ldReg x _ | .or x _ | .and x _ | .xor x _ | .addReg x _ | .sub x _ | .shr x _ | .subn x _ | .shl x _
  | .rnd x _ | .ldVxDT x | .ldVxK x => [x]
  | .loadRegs x => (List.finRange 16).filter (· ≤ x)
  | .cls | .ret | .jp _ | .call _ | .seImm _ _ | .sneImm _ _ | .seReg _ _ | .sneReg _ _ | .ldI _ | .jpV0 _ | .drw _ _ _ | .skp _
  | .sknp _ | .ldDTVx _ | .ldSTVx _ | .addI _ | .ldF _ | .ldB _ | .storeRegs _ => []

/-- The instructions that write `VF` as a side effect (R12). -/
def writesFlag : Instr → Bool
  | .addReg _ _ | .sub _ _ | .subn _ _ | .shr _ _ | .shl _ _ | .addI _ | .drw _ _ _ => true
  | .cls | .ret | .jp _ | .call _ | .seImm _ _ | .sneImm _ _ | .seReg _ _ | .ldImm _ _ | .addImm _ _ | .ldReg _ _ | .or _ _ | .and _ _
  | .xor _ _ | .sneReg _ _ | .ldI _ | .jpV0 _ | .rnd _ _ | .skp _ | .sknp _ | .ldVxDT _ | .ldVxK _ | .ldDTVx _ | .ldSTVx _ | .ldF _
  | .ldB _ | .storeRegs _ | .loadRegs _ => false

/-- The column "written by" of 10_state.md R10, for the instructions: which of them may change an item in the execute phase. The three last rows are
the model's records. -/
def mayWrite (i : Instr) : Item → Prop
  | .mem => ∃ x, i = .ldB x ∨ i = .storeRegs x
  | .v => destinations i ≠ [] ∨ writesFlag i = true
  | .i => (∃ nnn, i = .ldI nnn) ∨ ∃ x, i = .addI x ∨ i = .ldF x
  | .pc => True
  | .stack => ∃ nnn, i = .call nnn
  | .sp => (∃ nnn, i = .call nnn) ∨ i = .ret
  | .dt => ∃ x, i = .ldDTVx x
  | .st => ∃ x, i = .ldSTVx x
  | .fb | .renderNeeded => i = .cls ∨ ∃ x y n, i = .drw x y n
  | .keys | .soundNeeded | .stepNo => False
  | .out => i = .cls ∨ (∃ x y n, i = .drw x y n) ∨ ∃ s, faultCause s i ≠ none
  | .firstDiag => ∃ s, faultCause s i ≠ none

/-- Cell `idx` lies under a 1 bit of the `n`-row sprite at `I`, drawn at origin `(vx, vy)` (42_display.md R121). -/
def SpriteCovers (s : State) (vx vy n idx : Nat) : Prop :=
  ∃ row col b, row < n ∧ col < 8 ∧ s.mem.read (s.i.toNat + row) = some b ∧ b.getLsbD (7 - col) = true ∧
    idx = vx + col + (vy + row) * 64

/-- The byte that an instruction stores at address `a`, if it stores one there: the three decimal digits (44_index_memory.md R143) or the registers
from `V[0]` (R144); no other instruction stores (20_memory.md R46). -/
def storedByte (s : State) (i : Instr) (a : Nat) : Option Byte :=
  match i with
  | .ldB x =>
    if a = s.i.toNat then some (BitVec.ofNat 8 ((s.getV x).toNat / 100))
    else if a = s.i.toNat + 1 then some (BitVec.ofNat 8 ((s.getV x).toNat / 10 % 10))
    else if a = s.i.toNat + 2 then some (BitVec.ofNat 8 ((s.getV x).toNat % 10))
    else none
  | .storeRegs x => if s.i.toNat ≤ a ∧ a ≤ s.i.toNat + x.val then some (s.getV (Fin.ofNat 16 (a - s.i.toNat))) else none
  | .cls | .ret | .jp _ | .call _ | .seImm _ _ | .sneImm _ _ | .seReg _ _ | .ldImm _ _ | .addImm _ _ | .ldReg _ _ | .or _ _ | .and _ _
  | .xor _ _ | .addReg _ _ | .sub _ _ | .shr _ _ | .subn _ _ | .shl _ _ | .sneReg _ _ | .ldI _ | .jpV0 _ | .rnd _ _ | .drw _ _ _
  | .skp _ | .sknp _ | .ldVxDT _ | .ldVxK _ | .ldDTVx _ | .ldSTVx _ | .addI _ | .ldF _ | .loadRegs _ => none

/-- The unknown words by the table of 30_encoding.md R66. -/
def unknownWord (w : Nat) : Prop :=
  (w < 0x1000 ∧ w ≠ 0x00E0 ∧ w ≠ 0x00EE) ∨
  (w / 0x1000 = 5 ∧ w % 16 ≠ 0) ∨
  (w / 0x1000 = 8 ∧ w % 16 ∈ [8, 9, 10, 11, 12, 13, 15]) ∨
  (w / 0x1000 = 9 ∧ w % 16 ≠ 0) ∨
  (w / 0x1000 = 14 ∧ w % 256 ∉ [0x9E, 0xA1]) ∨
  (w / 0x1000 = 15 ∧ w % 256 ∉ [0x07, 0x0A, 0x15, 0x18, 0x1E, 0x29, 0x33, 0x55, 0x65])

end Sys2Proof.Machine
end

