-- ==== Sys2Proof/Certificates/Slice0/Obligations.lean ====
section
/-! DEFINITION. The statements for the provers. A statement about an instruction says, for its execute phase (`exec`), that it answers a next
state, what that state holds and what it leaves unchanged; what a step adds around the execute phase is said by the statements about steps. -/

open Sys2Proof Sys2Proof.Machine

/-! ## Arithmetic, logic, shifts, random (41_arith_logic.md) -/

/-- R100, R101: `LD Vx,kk` loads `kk`; `ADD Vx,kk` adds it modulo 256 and writes no carry. -/
def Obligations.ImmediateLoadAndAdd : Prop :=
  ∀ (x : Reg) (kk : Byte) (s : State),
    (∃ t, exec (.ldImm x kk) s = .next t ∧ t.getV x = kk ∧
      t.pc = s.pc + 2 ∧ SameRegsExcept [x] s t ∧ SameExcept [.v, .pc] s t) ∧
    (∃ t, exec (.addImm x kk) s = .next t ∧ (t.getV x).toNat = ((s.getV x).toNat + kk.toNat) % 256 ∧
      t.pc = s.pc + 2 ∧ SameRegsExcept [x] s t ∧ SameExcept [.v, .pc] s t)

/-- R102 to R105: the move and the three bitwise instructions, bit by bit; `VF` is not written unless it is the destination. -/
def Obligations.MoveAndLogic : Prop :=
  ∀ (x y : Reg) (s : State),
    (∃ t, exec (.ldReg x y) s = .next t ∧ t.getV x = s.getV y ∧
      t.pc = s.pc + 2 ∧ SameRegsExcept [x] s t ∧ SameExcept [.v, .pc] s t) ∧
    (∃ t, exec (.or x y) s = .next t ∧ (∀ k, (t.getV x).getLsbD k = ((s.getV x).getLsbD k || (s.getV y).getLsbD k)) ∧
      t.pc = s.pc + 2 ∧ SameRegsExcept [x] s t ∧ SameExcept [.v, .pc] s t) ∧
    (∃ t, exec (.and x y) s = .next t ∧ (∀ k, (t.getV x).getLsbD k = ((s.getV x).getLsbD k && (s.getV y).getLsbD k)) ∧
      t.pc = s.pc + 2 ∧ SameRegsExcept [x] s t ∧ SameExcept [.v, .pc] s t) ∧
    (∃ t, exec (.xor x y) s = .next t ∧ (∀ k, (t.getV x).getLsbD k = ((s.getV x).getLsbD k ^^ (s.getV y).getLsbD k)) ∧
      t.pc = s.pc + 2 ∧ SameRegsExcept [x] s t ∧ SameExcept [.v, .pc] s t)

/-- R106: `ADD Vx,Vy` wraps modulo 256, and `VF` ends as the carry for all operands, `x = F` and `y = F` among them. -/
def Obligations.AddRegistersWithCarry : Prop :=
  ∀ (x y : Reg) (s : State),
    ∃ t, exec (.addReg x y) s = .next t ∧
      (x ≠ vF → (t.getV x).toNat = ((s.getV x).toNat + (s.getV y).toNat) % 256) ∧
      t.getV vF = (if (s.getV x).toNat + (s.getV y).toNat > 255 then 1 else 0) ∧
      t.pc = s.pc + 2 ∧ SameRegsExcept [x, vF] s t ∧ SameExcept [.v, .pc] s t

/-- R107, R109: `SUB` is `V[x] - V[y]`, `SUBN` is `V[y] - V[x]`, both modulo 256, and `VF` ends as 1 iff minuend ≥ subtrahend, for all operands. -/
def Obligations.SubtractWithNoBorrow : Prop :=
  ∀ (x y : Reg) (s : State),
    (∃ t, exec (.sub x y) s = .next t ∧
      (x ≠ vF → (t.getV x).toNat = ((s.getV x).toNat + 256 - (s.getV y).toNat) % 256) ∧
      t.getV vF = (if (s.getV x).toNat ≥ (s.getV y).toNat then 1 else 0) ∧
      t.pc = s.pc + 2 ∧ SameRegsExcept [x, vF] s t ∧ SameExcept [.v, .pc] s t) ∧
    (∃ t, exec (.subn x y) s = .next t ∧
      (x ≠ vF → (t.getV x).toNat = ((s.getV y).toNat + 256 - (s.getV x).toNat) % 256) ∧
      t.getV vF = (if (s.getV y).toNat ≥ (s.getV x).toNat then 1 else 0) ∧
      t.pc = s.pc + 2 ∧ SameRegsExcept [x, vF] s t ∧ SameExcept [.v, .pc] s t)

/-- R108, R110: shifts by one, the bit shifted out in `VF` as 0 or 1; the field `y` and the register it names play no part. -/
def Obligations.ShiftsByOne : Prop :=
  ∀ (x y : Reg) (s : State),
    (∃ t, exec (.shr x y) s = .next t ∧
      (x ≠ vF → (t.getV x).toNat = (s.getV x).toNat / 2) ∧ (t.getV vF).toNat = (s.getV x).toNat % 2 ∧
      t.pc = s.pc + 2 ∧ SameRegsExcept [x, vF] s t ∧ SameExcept [.v, .pc] s t ∧
      (∀ y', exec (.shr x y') s = .next t)) ∧
    (∃ t, exec (.shl x y) s = .next t ∧
      (x ≠ vF → (t.getV x).toNat = (s.getV x).toNat * 2 % 256) ∧ (t.getV vF).toNat = (s.getV x).toNat / 128 ∧
      t.pc = s.pc + 2 ∧ SameRegsExcept [x, vF] s t ∧ SameExcept [.v, .pc] s t ∧
      (∀ y', exec (.shl x y') s = .next t))

/-- R111 with the model's form of the draw (DESIGN CHOICE, notes/assumptions/1.md: a constant without a body, of the step's number): `RND Vx,kk` stores the step's random
byte under the mask, for every value of the draw. -/
def Obligations.RandomByteUnderMask : Prop :=
  ∀ (x : Reg) (kk : Byte) (s : State),
    ∃ t, exec (.rnd x kk) s = .next t ∧ t.getV x = Config.rnd s.stepNo &&& kk ∧
      t.pc = s.pc + 2 ∧ SameRegsExcept [x] s t ∧ SameExcept [.v, .pc] s t

/-! ## Control transfer (40_control_flow.md) -/

/-- R83 to R86: the four register skips move `PC` by exactly 4 when their condition holds and by exactly 2 otherwise, and change nothing else. -/
def Obligations.RegisterSkips : Prop :=
  ∀ (x y : Reg) (kk : Byte) (s : State),
    (∃ t, exec (.seImm x kk) s = .next t ∧ t.pc = s.pc + (if s.getV x = kk then 4 else 2) ∧ SameExcept [.pc] s t) ∧
    (∃ t, exec (.sneImm x kk) s = .next t ∧ t.pc = s.pc + (if s.getV x = kk then 2 else 4) ∧ SameExcept [.pc] s t) ∧
    (∃ t, exec (.seReg x y) s = .next t ∧ t.pc = s.pc + (if s.getV x = s.getV y then 4 else 2) ∧ SameExcept [.pc] s t) ∧
    (∃ t, exec (.sneReg x y) s = .next t ∧ t.pc = s.pc + (if s.getV x = s.getV y then 2 else 4) ∧ SameExcept [.pc] s t)

/-- R81, R87: the absolute jump, and the jump with the offset `V[0]`, whose sum is not reduced to 12 bits. -/
def Obligations.JumpTargets : Prop :=
  ∀ (nnn : Addr12) (s : State),
    (∃ t, exec (.jp nnn) s = .next t ∧ t.pc.toNat = nnn.toNat ∧ SameExcept [.pc] s t) ∧
    (∃ t, exec (.jpV0 nnn) s = .next t ∧ t.pc.toNat = nnn.toNat + (s.getV 0).toNat ∧ SameExcept [.pc] s t)

/-- R82, R153: `CALL` pushes its own address and jumps; with 16 entries in use it is squashed with `StackOverflow`. -/
def Obligations.CallPushesItsAddress : Prop :=
  ∀ (nnn : Addr12) (s : State), s.spLegal →
    (s.sp ≠ 0x0F#8 →
      ∃ t, exec (.call nnn) s = .next t ∧ t.sp = s.sp + 1 ∧ t.stack[t.sp.toNat]? = some s.pc ∧
        (∀ k : Fin 16, k.val ≠ t.sp.toNat → t.stack[k.val] = s.stack[k.val]) ∧
        t.pc.toNat = nnn.toNat ∧ SameExcept [.pc, .sp, .stack] s t) ∧
    (s.sp = 0x0F#8 → ∃ t, exec (.call nnn) s = .next t ∧ Squashed .stackOverflow (encode (.call nnn)) s t)

/-- R80, R154: `RET` continues 2 after the popped address and leaves the entry in place; on the empty stack it is squashed with `StackUnderflow`. -/
def Obligations.ReturnPopsAddress : Prop :=
  ∀ s : State, s.spLegal →
    (s.sp ≠ 0xFF#8 →
      ∃ t ra, exec .ret s = .next t ∧ s.stack[s.sp.toNat]? = some ra ∧ t.pc = ra + 2 ∧ t.sp = s.sp - 1 ∧
        SameExcept [.pc, .sp] s t) ∧
    (s.sp = 0xFF#8 → ∃ t, exec .ret s = .next t ∧ Squashed .stackUnderflow (encode .ret) s t)

/-- The model's choice for states that no run reaches (notes/assumptions/6.md): with a stack pointer outside its legal set, `CALL` and `RET` stop by name. -/
def Obligations.IllegalStackPointerStops : Prop :=
  ∀ (nnn : Addr12) (s : State), ¬ s.spLegal →
    exec (.call nnn) s = .fault .stackPointerIllegal ∧ exec .ret s = .fault .stackPointerIllegal

/-- R88 item 2 and conflict C5: a `CALL` that is not squashed, then whatever leaves the stack and its pointer alone, then `RET`: execution continues at the instruction after the `CALL`,
and the stack pointer is what it was. -/
def Obligations.CallThenReturnContinuesAfterCall : Prop :=
  ∀ (nnn : Addr12) (s t u w : State), s.spLegal → s.sp ≠ 0x0F#8 →
    exec (.call nnn) s = .next t → u.sp = t.sp → u.stack = t.stack → exec .ret u = .next w →
    w.pc = s.pc + 2 ∧ w.sp = s.sp

/-! ## Display (42_display.md) -/

/-- R120: `CLS` darkens every cell and raises render-needed. -/
def Obligations.ClearScreen : Prop :=
  ∀ s : State,
    ∃ t, exec .cls s = .next t ∧ (∀ idx, t.fb.cell idx = false) ∧ t.renderNeeded = true ∧
      t.out = { s.out with renderEvent := true } ∧ t.pc = s.pc + 2 ∧ SameExcept [.fb, .renderNeeded, .out, .pc] s t

/-- R121: `DRW` inverts exactly the cells of index below 2048 that lie under a 1 bit of the sprite, sets `VF` to 1 iff one of them was lit before and else to 0, and raises
render-needed; if a sprite byte lies outside memory it is squashed with `MemBounds`. -/
def Obligations.DrawSpriteByExclusiveOr : Prop :=
  ∀ (x y : Reg) (n : Rows) (s : State),
    (n.val = 0 ∨ s.i.toNat + n.val - 1 ≤ 0xFFF →
      ∃ t, exec (.drw x y n) s = .next t ∧
        (∀ idx < 2048, (t.fb.cell idx ≠ s.fb.cell idx ↔ SpriteCovers s (s.getV x).toNat (s.getV y).toNat n.val idx)) ∧
        (t.getV vF = 0 ∨ t.getV vF = 1) ∧
        (t.getV vF = 1 ↔ ∃ idx < 2048, s.fb.cell idx = true ∧ SpriteCovers s (s.getV x).toNat (s.getV y).toNat n.val idx) ∧
        t.renderNeeded = true ∧ t.out = { s.out with renderEvent := true } ∧ t.pc = s.pc + 2 ∧
        SameRegsExcept [vF] s t ∧ SameExcept [.fb, .v, .renderNeeded, .out, .pc] s t) ∧
    (n.val > 0 ∧ s.i.toNat + n.val - 1 > 0xFFF →
      ∃ t, exec (.drw x y n) s = .next t ∧ Squashed .memBounds (encode (.drw x y n)) s t)

/-- R122 item 2: drawing the identical sprite twice at the same coordinates restores the framebuffer, and the second `VF` is 1 iff the first draw turned at least one cell on. -/
def Obligations.DrawTwiceRestoresFramebuffer : Prop :=
  ∀ (x y : Reg) (n : Rows) (s t u : State), x ≠ vF → y ≠ vF → n.val = 0 ∨ s.i.toNat + n.val - 1 ≤ 0xFFF →
    exec (.drw x y n) s = .next t → exec (.drw x y n) t = .next u →
    u.fb = s.fb ∧ (u.getV vF = 1 ↔ ∃ idx, s.fb.cell idx = false ∧ t.fb.cell idx = true)

/-- R121, corner cases: a draw with no rows, or wholly at or below screen row 32, changes no cell, clears `VF` and raises render-needed all the same. -/
def Obligations.DrawWithNothingVisible : Prop :=
  ∀ (x y : Reg) (n : Rows) (s t : State), n.val = 0 ∨ (s.getV y).toNat ≥ 32 → n.val = 0 ∨ s.i.toNat + n.val - 1 ≤ 0xFFF →
    exec (.drw x y n) s = .next t →
    t.fb = s.fb ∧ t.getV vF = 0 ∧ t.renderNeeded = true ∧ t.out.renderEvent = true ∧ t.out.diag = s.out.diag

/-! ## Keys and timers (43_keys_timers.md) -/

/-- R130, R131, R157: the key skips look at the key that the whole byte `V[x]` names; above 15 they are squashed with `KeyIndexBounds`, and do not skip. -/
def Obligations.KeySkips : Prop :=
  ∀ (x : Reg) (s : State),
    ((s.getV x).toNat ≤ 15 →
      (∃ t, exec (.skp x) s = .next t ∧ t.pc = s.pc + (if s.keyDown (s.getV x).toNat then 4 else 2) ∧ SameExcept [.pc] s t) ∧
      (∃ t, exec (.sknp x) s = .next t ∧ t.pc = s.pc + (if s.keyDown (s.getV x).toNat then 2 else 4) ∧ SameExcept [.pc] s t)) ∧
    ((s.getV x).toNat > 15 →
      (∃ t, exec (.skp x) s = .next t ∧ Squashed .keyIndexBounds (encode (.skp x)) s t) ∧
      (∃ t, exec (.sknp x) s = .next t ∧ Squashed .keyIndexBounds (encode (.sknp x)) s t))

/-- R132, R134, R135: the timer instructions are direct copies. (What the tick of the same step makes of them: `TimersTickInEveryFetchedStep`.) -/
def Obligations.TimerCopies : Prop :=
  ∀ (x : Reg) (s : State),
    (∃ t, exec (.ldVxDT x) s = .next t ∧ t.getV x = s.dt ∧ t.pc = s.pc + 2 ∧ SameRegsExcept [x] s t ∧ SameExcept [.v, .pc] s t) ∧
    (∃ t, exec (.ldDTVx x) s = .next t ∧ t.dt = s.getV x ∧ t.pc = s.pc + 2 ∧ SameExcept [.dt, .pc] s t) ∧
    (∃ t, exec (.ldSTVx x) s = .next t ∧ t.st = s.getV x ∧ t.pc = s.pc + 2 ∧ SameExcept [.st, .pc] s t)

/-- R133, with the model's reading of `KEY_PICK` as a draw (notes/assumptions/2.md): with a key pressed, `LD Vx,K` stores the index of a pressed key and advances; with one key pressed, that one. With
none pressed it changes nothing at all, so that the same word is fetched again. -/
def Obligations.KeyWaitReportsAPressedKey : Prop :=
  ∀ (x : Reg) (s : State),
    (s.keys ≠ 0 →
      ∃ t k, exec (.ldVxK x) s = .next t ∧ k < 16 ∧ s.keyDown k = true ∧ (t.getV x).toNat = k ∧
        (∀ j, (∀ k' < 16, s.keyDown k' = true → k' = j) → k = j) ∧
        t.pc = s.pc + 2 ∧ SameRegsExcept [x] s t ∧ SameExcept [.v, .pc] s t) ∧
    (s.keys = 0 → exec (.ldVxK x) s = .next s)

/-! ## The index register and memory transfers (44_index_memory.md) -/

/-- R140, R141, R142: `LD I,nnn`; `ADD I,Vx` modulo 2^16 with the flag of the untruncated sum against 0xFFF, for `x = F` too; `LD F,Vx` with the whole byte times 5. -/
def Obligations.IndexRegisterWrites : Prop :=
  ∀ (nnn : Addr12) (x : Reg) (s : State),
    (∃ t, exec (.ldI nnn) s = .next t ∧ t.i.toNat = nnn.toNat ∧ t.pc = s.pc + 2 ∧ SameExcept [.i, .pc] s t) ∧
    (∃ t, exec (.addI x) s = .next t ∧ t.i.toNat = (s.i.toNat + (s.getV x).toNat) % 65536 ∧
      t.getV vF = (if s.i.toNat + (s.getV x).toNat > 0xFFF then 1 else 0) ∧
      t.pc = s.pc + 2 ∧ SameRegsExcept [vF] s t ∧ SameExcept [.i, .v, .pc] s t) ∧
    (∃ t, exec (.ldF x) s = .next t ∧ t.i.toNat = (s.getV x).toNat * 5 ∧ t.pc = s.pc + 2 ∧ SameExcept [.i, .pc] s t)

/-- R143: `LD B,Vx` stores the hundreds, tens and ones digits at `I`, `I+1`, `I+2` and nothing elsewhere; if one of these lies outside memory it is squashed with
`MemBounds`, with nothing written. -/
def Obligations.StoreDecimalDigits : Prop :=
  ∀ (x : Reg) (s : State), s.mem.wf = true →
    (s.i.toNat + 2 ≤ 0xFFF →
      ∃ t h d o, exec (.ldB x) s = .next t ∧
        t.mem.read s.i.toNat = some h ∧ t.mem.read (s.i.toNat + 1) = some d ∧ t.mem.read (s.i.toNat + 2) = some o ∧
        h.toNat = (s.getV x).toNat / 100 ∧ d.toNat = (s.getV x).toNat / 10 % 10 ∧ o.toNat = (s.getV x).toNat % 10 ∧
        (∀ a, a < s.i.toNat ∨ s.i.toNat + 2 < a → t.mem.read a = s.mem.read a) ∧
        t.pc = s.pc + 2 ∧ SameExcept [.mem, .pc] s t) ∧
    (s.i.toNat + 2 > 0xFFF → ∃ t, exec (.ldB x) s = .next t ∧ Squashed .memBounds (encode (.ldB x)) s t)

/-- R144: `LD [I],Vx` stores `V[0]` to `V[x]` at `I` to `I+x` and nothing elsewhere, and leaves `I`; if one of the addresses lies outside memory it is squashed with
`MemBounds`, with nothing written. -/
def Obligations.StoreRegisterBlock : Prop :=
  ∀ (x : Reg) (s : State), s.mem.wf = true →
    (s.i.toNat + x.val ≤ 0xFFF →
      ∃ t, exec (.storeRegs x) s = .next t ∧
        (∀ r ≤ x, t.mem.read (s.i.toNat + r.val) = some (s.getV r)) ∧
        (∀ a, a < s.i.toNat ∨ s.i.toNat + x.val < a → t.mem.read a = s.mem.read a) ∧
        t.pc = s.pc + 2 ∧ SameExcept [.mem, .pc] s t) ∧
    (s.i.toNat + x.val > 0xFFF → ∃ t, exec (.storeRegs x) s = .next t ∧ Squashed .memBounds (encode (.storeRegs x)) s t)

/-- R145: `LD Vx,[I]` loads `V[0]` to `V[x]` from `I` to `I+x` and no other register, and leaves `I`; if one of the addresses lies outside memory it is squashed with `MemBounds`,
with no register written. -/
def Obligations.LoadRegisterBlock : Prop :=
  ∀ (x : Reg) (s : State),
    (s.i.toNat + x.val ≤ 0xFFF →
      ∃ t, exec (.loadRegs x) s = .next t ∧
        (∀ r ≤ x, s.mem.read (s.i.toNat + r.val) = some (t.getV r)) ∧ (∀ r > x, t.getV r = s.getV r) ∧
        t.pc = s.pc + 2 ∧ SameExcept [.v, .pc] s t) ∧
    (s.i.toNat + x.val > 0xFFF → ∃ t, exec (.loadRegs x) s = .next t ∧ Squashed .memBounds (encode (.loadRegs x)) s t)

/-- R144, R145 together: what a block store saved, a block load of the same size through the same `I` brings back, whatever the registers held in between. -/
def Obligations.BlockStoreThenLoadRestoresRegisters : Prop :=
  ∀ (x r : Reg) (s t u w : State), s.mem.wf = true → s.i.toNat + x.val ≤ 0xFFF →
    exec (.storeRegs x) s = .next t → u.mem = t.mem → u.i = s.i → exec (.loadRegs x) u = .next w →
    r ≤ x → w.getV r = s.getV r

/-- R52: a fetch sees every byte that the step before it stored. After a step that runs `LD B,Vx` or `LD [I],Vx` and is not squashed, `PC` is 2 further, and in any state with the memory it left
(the very next state, or one after jumps) a fetch reads, in its high and in its low byte, the byte stored at that address if one was and else what the address held before the step. -/
def Obligations.NextFetchSeesTheStore : Prop :=
  ∀ (i : Instr) (s t : State), s.mem.wf = true → (∃ x, i = .ldB x ∨ i = .storeRegs x) → fetch s = some (encode i) → faultCause s i = none →
    step s = .next t →
    t.pc = s.pc + 2 ∧
    ∀ u : State, u.mem = t.mem → u.pc.toNat ≤ 0xFFE →
      ∃ hi lo, fetch u = some (wordOfBytes hi lo) ∧
        some hi = (storedByte s i u.pc.toNat).or (s.mem.read u.pc.toNat) ∧
        some lo = (storedByte s i (u.pc.toNat + 1)).or (s.mem.read (u.pc.toNat + 1))

/-! ## Encoding (30_encoding.md) -/

/-- Decode and encode agree: from the bytes of any instruction, whatever follows them, the decoder reads that instruction and leaves what follows. -/
def Obligations.DecodeOfEncodeIsIdentity : Prop :=
  ∀ (i : Instr) (rest : List Byte), i.wellFormed = true → decodeBytes (bytesOfWord (encode i) ++ rest) = .ok (i, rest)

/-- The other direction: a word that decodes is the encoding of what it decodes to, so no two words share a term of `Instr`, and a diagnostic's `word` is the fetched word (notes/assumptions/7.md). That it
holds for `SHR` and `SHL`, where R67 has all 16 values of the field `y` select the same instruction, is the model's choice: the syntax keeps the unused field (notes/assumptions/10.md). -/
def Obligations.EncodeOfDecodeIsIdentity : Prop :=
  ∀ (w : Word) (i : Instr), decodeWord w = some i → encode i = w

/-- R62, R65: the word of every instruction, as a number: the row's fixed nibbles with `x` at weight 256, `y` at 16, and `n`, `kk` or `nnn` at 1. -/
def Obligations.EncodedWordsHaveTheirLayout : Prop :=
  (encode .cls).toNat = 0x00E0 ∧ (encode .ret).toNat = 0x00EE ∧
  (∀ nnn : Addr12,
    (encode (.jp nnn)).toNat = 0x1000 + nnn.toNat ∧ (encode (.call nnn)).toNat = 0x2000 + nnn.toNat ∧
    (encode (.ldI nnn)).toNat = 0xA000 + nnn.toNat ∧ (encode (.jpV0 nnn)).toNat = 0xB000 + nnn.toNat) ∧
  (∀ (x : Reg) (kk : Byte),
    (encode (.seImm x kk)).toNat = 0x3000 + x.val * 256 + kk.toNat ∧ (encode (.sneImm x kk)).toNat = 0x4000 + x.val * 256 + kk.toNat ∧
    (encode (.ldImm x kk)).toNat = 0x6000 + x.val * 256 + kk.toNat ∧ (encode (.addImm x kk)).toNat = 0x7000 + x.val * 256 + kk.toNat ∧
    (encode (.rnd x kk)).toNat = 0xC000 + x.val * 256 + kk.toNat) ∧
  (∀ x y : Reg,
    (encode (.seReg x y)).toNat = 0x5000 + x.val * 256 + y.val * 16 ∧ (encode (.sneReg x y)).toNat = 0x9000 + x.val * 256 + y.val * 16 ∧
    (encode (.ldReg x y)).toNat = 0x8000 + x.val * 256 + y.val * 16 ∧ (encode (.or x y)).toNat = 0x8001 + x.val * 256 + y.val * 16 ∧
    (encode (.and x y)).toNat = 0x8002 + x.val * 256 + y.val * 16 ∧ (encode (.xor x y)).toNat = 0x8003 + x.val * 256 + y.val * 16 ∧
    (encode (.addReg x y)).toNat = 0x8004 + x.val * 256 + y.val * 16 ∧ (encode (.sub x y)).toNat = 0x8005 + x.val * 256 + y.val * 16 ∧
    (encode (.shr x y)).toNat = 0x8006 + x.val * 256 + y.val * 16 ∧ (encode (.subn x y)).toNat = 0x8007 + x.val * 256 + y.val * 16 ∧
    (encode (.shl x y)).toNat = 0x800E + x.val * 256 + y.val * 16) ∧
  (∀ (x y : Reg) (n : Rows), (encode (.drw x y n)).toNat = 0xD000 + x.val * 256 + y.val * 16 + n.val) ∧
  (∀ x : Reg,
    (encode (.skp x)).toNat = 0xE09E + x.val * 256 ∧ (encode (.sknp x)).toNat = 0xE0A1 + x.val * 256 ∧
    (encode (.ldVxDT x)).toNat = 0xF007 + x.val * 256 ∧ (encode (.ldVxK x)).toNat = 0xF00A + x.val * 256 ∧
    (encode (.ldDTVx x)).toNat = 0xF015 + x.val * 256 ∧ (encode (.ldSTVx x)).toNat = 0xF018 + x.val * 256 ∧
    (encode (.addI x)).toNat = 0xF01E + x.val * 256 ∧ (encode (.ldF x)).toNat = 0xF029 + x.val * 256 ∧
    (encode (.ldB x)).toNat = 0xF033 + x.val * 256 ∧ (encode (.storeRegs x)).toNat = 0xF055 + x.val * 256 ∧
    (encode (.loadRegs x)).toNat = 0xF065 + x.val * 256)

/-- R65: the decoder and the opcode map agree on every word: a word selects the row of the instruction it decodes to and no other row, and a word that does not decode selects none. -/
def Obligations.DecoderAgreesWithOpcodeMap : Prop :=
  ∀ w : Word, (opTable.filter (·.selects w)).map (·.mnemonic) = (decodeWord w).toList.map mnemonicOf

/-- R66: the words that do not decode are exactly those of the table of unknown words. -/
def Obligations.UnknownWordsAreThoseOfTheTable : Prop :=
  ∀ w : Word, decodeWord w = none ↔ unknownWord w.toNat

/-- Words of the rules' own examples decode to the instruction they stand for (R61, R80 to R87, R100, R106, R121, R130, R142, R144). -/
def Obligations.ExampleWordsDecode : Prop :=
  decodeTableWord 16 0x6A05 = some (.ldImm 0xA 0x05) ∧ decodeTableWord 16 0x8124 = some (.addReg 1 2) ∧
  decodeTableWord 16 0x00EE = some .ret ∧ decodeTableWord 16 0x2300 = some (.call 0x300) ∧
  decodeTableWord 16 0x9120 = some (.sneReg 1 2) ∧ decodeTableWord 16 0xD005 = some (.drw 0 0 5) ∧
  decodeTableWord 16 0xE19E = some (.skp 1) ∧ decodeTableWord 16 0xF20A = some (.ldVxK 2) ∧
  decodeTableWord 16 0xF029 = some (.ldF 0) ∧ decodeTableWord 16 0xF255 = some (.storeRegs 2) ∧
  decodeTableWord 16 0x5121 = none ∧ decodeTableWord 16 0x0000 = none

/-! ## Steps (30_encoding.md R72, 60_exceptions.md) -/

/-- R72, phase 3: when the two bytes at `PC` decode to a well-formed instruction, the step is that instruction's execute phase, run with the outputs cleared, then the tick. -/
def Obligations.StepRunsTheDecodedInstruction : Prop :=
  ∀ (s : State) (hi lo : Byte) (i : Instr),
    s.mem.read s.pc.toNat = some hi → s.mem.read (s.pc.toNat + 1) = some lo → decodeBytes [hi, lo] = .ok (i, []) → i.wellFormed = true →
    step s =
      match exec i { s with out := { diag := none, renderEvent := false, soundEvent := false } } with
      | .next t => .next (afterExec t)
      | .fault r => .fault r
      | .refused r => .refused r

/-- R72: every step is fetch, decode, execute, tick. A failed fetch ends it with the diagnostic and no change; an unknown word is squashed and ticks; a decoded instruction
that raises a cause is squashed and ticks; one that completes ticks. -/
def Obligations.StepIsFetchDecodeExecuteTick : Prop :=
  ∀ s : State,
    (s.pc.toNat > 0xFFE → ∃ t, step s = .next t ∧
      t.out = { diag := some { cause := .fetchBounds, word := 0x0000#16, pc := s.pc }, renderEvent := false, soundEvent := false } ∧
      SameExcept [.out, .firstDiag, .stepNo] s t) ∧
    (s.pc.toNat ≤ 0xFFE → ∃ hi lo, s.mem.read s.pc.toNat = some hi ∧ s.mem.read (s.pc.toNat + 1) = some lo ∧
      (decodeWord (wordOfBytes hi lo) = none → ∃ u t, step s = .next t ∧
        Squashed .unknownInstruction (wordOfBytes hi lo) { s with out := StepOutput.quiet } u ∧ Ticked u t) ∧
      (∀ i c, decodeWord (wordOfBytes hi lo) = some i → faultCause s i = some c → ∃ u t, step s = .next t ∧
        Squashed c (wordOfBytes hi lo) { s with out := StepOutput.quiet } u ∧ Ticked u t) ∧
      (∀ i u, decodeWord (wordOfBytes hi lo) = some i → exec i { s with out := StepOutput.quiet } = .next u →
        ∃ t, step s = .next t ∧ Ticked u t))

/-- R151, R156: a step whose word is unknown, or whose instruction meets its fault condition, is squashed: from before the step to after it `PC` is 2 further, the timers
have ticked, the diagnostic is out, and nothing else has changed. -/
def Obligations.FaultingInstructionIsSquashed : Prop :=
  ∀ (s : State) (w : Word) (c : Cause), fetch s = some w →
    (decodeWord w = none ∧ c = .unknownInstruction) ∨ (∃ i, decodeWord w = some i ∧ faultCause s i = some c) →
    ∃ t, step s = .next t ∧ t.pc = s.pc + 2 ∧ t.dt.toNat = s.dt.toNat - 1 ∧ t.st.toNat = s.st.toNat - 1 ∧
      (t.soundNeeded = true ↔ s.soundNeeded = true ∨ s.st = 1) ∧
      t.out = { diag := some { cause := c, word := w, pc := s.pc }, renderEvent := false, soundEvent := s.st == 1 } ∧
      SameExcept [.pc, .dt, .st, .soundNeeded, .out, .firstDiag, .stepNo] s t

/-- R150: a step's diagnostic is the one that the table of causes gives, with the fetched word and the `PC` before the step, and there is none where the table gives none;
`LoadError` is the answer of a load of more than 3584 bytes only; the codes are 1 to 7. -/
def Obligations.DiagnosticIsThatOfTheTable : Prop :=
  (∀ s t : State, step s = .next t → t.out.diag = diagOf s) ∧
  (∀ (s : State) (a : HostAction), (∃ t, act a s = .next (t, .loadError)) ↔ ∃ bytes, a = .load bytes ∧ 3584 < bytes.length) ∧
  [Cause.unknownInstruction, .stackOverflow, .stackUnderflow, .fetchBounds, .memBounds, .keyIndexBounds].map Cause.code = [1, 2, 3, 4, 5, 6] ∧
  HostReply.loadErrorCode = 7

/-- R155: once `PC > 0xFFE`, every further step fails alike: after any number of steps nothing has changed but the outputs and the sticky record. -/
def Obligations.FetchBoundsStallsForGood : Prop :=
  ∀ (s : State) (k : Nat), s.pc.toNat > 0xFFE →
    ∃ t : State, Sys2Proof.core.run (k + 1) s = .next t ∧
      t.out = { diag := some { cause := .fetchBounds, word := 0x0000#16, pc := s.pc }, renderEvent := false, soundEvent := false } ∧
      SameExcept [.out, .firstDiag] s t

/-- R164, R165, over whole steps: in every step whose fetch succeeded each timer counts down by one unless it is 0, from the value that this step's `LD DT,Vx` or `LD ST,Vx` wrote if it is one, and
the sound signal is raised iff the sound timer counted from 1; in a step whose fetch fails neither timer counts and no signal is raised. -/
def Obligations.TimersTickInEveryFetchedStep : Prop :=
  ∀ s t : State, step s = .next t →
    (s.pc.toNat ≤ 0xFFE →
      ((∀ x, fetch s ≠ some (encode (.ldDTVx x))) → t.dt.toNat = s.dt.toNat - 1) ∧
      (∀ x, fetch s = some (encode (.ldDTVx x)) → t.dt.toNat = (s.getV x).toNat - 1) ∧
      ((∀ x, fetch s ≠ some (encode (.ldSTVx x))) → t.st.toNat = s.st.toNat - 1 ∧
        (t.soundNeeded = true ↔ s.soundNeeded = true ∨ s.st = 1) ∧ (t.out.soundEvent = true ↔ s.st = 1)) ∧
      (∀ x, fetch s = some (encode (.ldSTVx x)) → t.st.toNat = (s.getV x).toNat - 1 ∧
        (t.soundNeeded = true ↔ s.soundNeeded = true ∨ s.getV x = 1) ∧ (t.out.soundEvent = true ↔ s.getV x = 1))) ∧
    (s.pc.toNat > 0xFFE → t.dt = s.dt ∧ t.st = s.st ∧ t.soundNeeded = s.soundNeeded ∧ t.out.soundEvent = false)

/-- R166: the render event is raised in exactly the steps that complete a `CLS` or a `DRW`, and render-needed is then set and otherwise left. -/
def Obligations.RenderEventIffDisplayInstruction : Prop :=
  ∀ s t : State, step s = .next t →
    (t.out.renderEvent = true ↔
      fetch s = some (encode .cls) ∨ ∃ x y n, fetch s = some (encode (.drw x y n)) ∧ faultCause s (.drw x y n) = none) ∧
    (t.renderNeeded = true ↔ s.renderNeeded = true ∨ t.out.renderEvent = true)

/-- R133 corner cases and R188: a program that waits for a key with none pressed, or that jumps to itself, stays where it is for any number of steps, while only the timers and sound-needed change:
each timer is `k` lower, or 0, after `k` steps, and the signal is raised if the sound timer ran out. -/
def Obligations.IdleStepsOnlyTickTimers : Prop :=
  ∀ (s : State) (k : Nat),
    ((∃ x, fetch s = some (encode (.ldVxK x))) ∧ s.keys = 0) ∨
      (∃ nnn : Addr12, fetch s = some (encode (.jp nnn)) ∧ nnn.toNat = s.pc.toNat) →
    ∃ t : State, Sys2Proof.core.run k s = .next t ∧ t.dt.toNat = s.dt.toNat - k ∧ t.st.toNat = s.st.toNat - k ∧
      (t.soundNeeded = true ↔ s.soundNeeded = true ∨ (0 < s.st.toNat ∧ s.st.toNat ≤ k)) ∧
      SameExcept [.dt, .st, .soundNeeded, .out, .stepNo] s t

/-- R172: the sticky record takes the first diagnostic, and nothing clears it: no step, and no host action, `Reset` and `Load` among them. (The record, and that these two keep it, is the model's
choice, notes/assumptions/5.md.) -/
def Obligations.FirstDiagnosticIsSticky : Prop :=
  (∀ s t : State, step s = .next t → s.firstDiag = none → t.firstDiag = t.out.diag) ∧
  (∀ (s t : State) (a : HostAction) (r : HostReply) (d : Diag), act a s = .next (t, r) → s.firstDiag = some d → t.firstDiag = some d) ∧
  (∀ (s t : State) (d : Diag), step s = .next t → s.firstDiag = some d → t.firstDiag = some d)

/-! ## Rules over all instructions -/

/-- R10, the column "written by", with R13, R19, R20: an instruction's execute phase changes an item of Machine State only if the table lists the instruction among the item's writers. -/
def Obligations.OnlyListedWritersChangeAnItem : Prop :=
  ∀ (i : Instr) (s t : State) (k : Item), exec i s = .next t → ¬ Same s t k → mayWrite i k

/-- R11, R12: an instruction changes only registers that its rule names as destinations, and `VF` if it is one of the seven that write it as a flag. -/
def Obligations.RegistersChangeOnlyAsNamed : Prop :=
  ∀ (i : Instr) (s t : State) (r : Reg), exec i s = .next t → t.getV r ≠ s.getV r →
    r ∈ destinations i ∨ (r = vF ∧ writesFlag i = true)

/-- R20, R21, R22, R43: no step writes the keys or the glyph parameter, and no step clears a signal. -/
def Obligations.StepsNeverWriteKeysNorClearSignals : Prop :=
  ∀ s t : State, step s = .next t →
    t.keys = s.keys ∧ t.mem.glyphs = s.mem.glyphs ∧ (s.renderNeeded = true → t.renderNeeded = true) ∧
      (s.soundNeeded = true → t.soundNeeded = true)

/-- R21, R22, R27: the core never reads the two signals, and a step does not depend on earlier outputs or on the sticky record: changing them before a step changes them after it and nothing else. -/
def Obligations.SignalsAndRecordsAreNeverRead : Prop :=
  ∀ (s t : State) (rn sn : Bool) (o : StepOutput) (d : Option Diag), step s = .next t →
    ∃ t', step { s with renderNeeded := rn, soundNeeded := sn, out := o, firstDiag := d } = .next t' ∧
      SameExcept [.renderNeeded, .soundNeeded, .firstDiag] t t'

/-- R10, the column "read by", for the keys (R162: "a key press changes no control flow by itself"): an instruction other than `SKP`, `SKNP` and `LD Vx,K` does the same whatever keys are pressed. -/
def Obligations.KeysAreReadOnlyByKeyInstructions : Prop :=
  ∀ (i : Instr) (s t : State) (k : BitVec 16), (∀ x, i ≠ .skp x ∧ i ≠ .sknp x ∧ i ≠ .ldVxK x) →
    exec i s = .next t → exec i { s with keys := k } = .next { t with keys := k }

/-- R25, R27: a step's random input is consumed by `RND` alone: every other instruction does the same whatever the step's number is. `LD Vx,K` is left out, because the model takes the choice among
several pressed keys from the same number (notes/assumptions/2.md). -/
def Obligations.RandomInputIsReadOnlyByRnd : Prop :=
  ∀ (i : Instr) (s t : State) (n : Nat), (∀ x kk, i ≠ .rnd x kk) → (∀ x, i ≠ .ldVxK x) →
    exec i s = .next t → exec i { s with stepNo := n } = .next { t with stepNo := n }

/-! ## Reset, load, host actions, invariants (70_reset_and_hazards.md, 10_state.md R28, R29) -/

/-- R28: the reset state. The glyph table is the parameter's default; its first five bytes are the source's own. -/
def Obligations.ResetStateValues : Prop :=
  (∀ a : Fin 80, State.reset.mem.read a.val = some Config.glyphTable[a.val]) ∧
  (∀ a, 0x050 ≤ a → a ≤ 0xFFF → State.reset.mem.read a = some 0x00#8) ∧
  State.reset.mem.readBlock 0 5 = some [0xF0#8, 0x90#8, 0x90#8, 0x90#8, 0xF0#8] ∧
  (∀ x, State.reset.getV x = 0x00#8) ∧ State.reset.i = 0x0000#16 ∧ State.reset.pc = 0x0200#16 ∧
  (∀ k : Fin 16, State.reset.stack[k.val] = 0x0000#16) ∧ State.reset.sp = 0xFF#8 ∧ State.reset.dt = 0x00#8 ∧ State.reset.st = 0x00#8 ∧
  (∀ idx, State.reset.fb.cell idx = false) ∧ State.reset.keys = 0#16 ∧
  State.reset.renderNeeded = false ∧ State.reset.soundNeeded = false

/-- R181, R158: `Load` of at most 3584 bytes resets and places byte `i` at `512 + i`, with the glyph table and zeros elsewhere; of more, it answers `LoadError` and changes nothing. (What the model's three
records do: `ModelRecordsSurviveHostActions`.) -/
def Obligations.LoadPlacesImageOrFailsCleanly : Prop :=
  ∀ (bytes : List Byte) (s : State),
    (bytes.length ≤ 3584 →
      ∃ t, act (.load bytes) s = .next (t, .ok) ∧
        (∀ i (h : i < bytes.length), t.mem.read (512 + i) = some bytes[i]) ∧
        (∀ a : Fin 80, t.mem.read a.val = some s.mem.glyphs[a.val]) ∧
        (∀ a, 80 ≤ a → a < 4096 → a < 512 ∨ 512 + bytes.length ≤ a → t.mem.read a = some 0x00#8) ∧
        SameExcept [.mem, .out, .firstDiag, .stepNo] State.reset t) ∧
    (3584 < bytes.length → act (.load bytes) s = .next (s, .loadError))

/-- R183: after a reset or a load, the first instruction executed is the word at 0x200, 0x201; after a load of at least two bytes that is the word of the image's first two,
the first the high byte. -/
def Obligations.FirstFetchIsAtTheEntryPoint : Prop :=
  (∀ (s t : State) (a : HostAction) (r : HostReply), a = .reset ∨ (∃ bytes, a = .load bytes ∧ r = .ok) → act a s = .next (t, r) →
    t.pc = 0x200#16 ∧ ∃ hi lo, t.mem.read 0x200 = some hi ∧ t.mem.read 0x201 = some lo ∧ fetch t = some (wordOfBytes hi lo)) ∧
  (∀ (s t : State) (b0 b1 : Byte) (rest : List Byte), act (.load (b0 :: b1 :: rest)) s = .next (t, .ok) → fetch t = some (wordOfBytes b0 b1))

/-- R180, R186: what each host action does to Machine State and answers. (What a load leaves in memory: `LoadPlacesImageOrFailsCleanly`. What a reset and a
load do to the model's three records: `ModelRecordsSurviveHostActions`.) -/
def Obligations.HostActionEffects : Prop :=
  ∀ (s : State) (k : BitVec 16) (bytes : List Byte),
    (∃ t, act .reset s = .next (t, .nothing) ∧ t.mem = { glyphs := s.mem.glyphs, cells := [] } ∧
      SameExcept [.mem, .out, .firstDiag, .stepNo] State.reset t) ∧
    (bytes.length ≤ 3584 → ∃ t, act (.load bytes) s = .next (t, .ok) ∧ SameExcept [.mem, .out, .firstDiag, .stepNo] State.reset t) ∧
    (3584 < bytes.length → act (.load bytes) s = .next (s, .loadError)) ∧
    (∃ t, act (.setKeys k) s = .next (t, .nothing) ∧ t.keys = k ∧ SameExcept [.keys] s t) ∧
    act .readFramebuffer s = .next (s, .framebuffer s.fb) ∧
    act .readSignals s = .next (s, .signals s.renderNeeded s.soundNeeded) ∧
    (∃ t, act .ackRender s = .next (t, .nothing) ∧ t.renderNeeded = false ∧ SameExcept [.renderNeeded] s t) ∧
    (∃ t, act .ackSound s = .next (t, .nothing) ∧ t.soundNeeded = false ∧ SameExcept [.soundNeeded] s t) ∧
    (∀ t, step s = .next t → act .step s = .next (t, .stepped t.out))

/-- The invariant holds after reset. -/
def Obligations.ResetSatisfiesInvariant : Prop := State.reset.Inv

/-- Every step keeps the invariant: the memory's canonical form, a legal stack pointer, `PC ≤ 0x10FE`, and return addresses at most 0xFFE (R29 items 1 and 3 with what item 3 rests on). -/
def Obligations.StepKeepsInvariant : Prop :=
  ∀ s t : State, s.Inv → step s = .next t → t.Inv

/-- R29: every state that host actions and steps reach from reset satisfies the invariant. -/
def Obligations.ReachableStatesSatisfyInvariant : Prop :=
  ∀ s : State, Reachable s → s.Inv

/-- R188: a step is always possible: from a state that satisfies the invariant, every host action answers a next state; the machine has no final state and no stop. -/
def Obligations.EveryHostActionAnswers : Prop :=
  ∀ (s : State) (a : HostAction), s.Inv → ∃ t r, act a s = .next (t, r)

/-- The canonical form is one form: two memories in it with the same glyph parameter that read alike at every address are equal (the model's memory, notes/assumptions/7.md). -/
def Obligations.EqualReadsMeanEqualMemories : Prop :=
  ∀ m m' : Memory, m.wf = true → m'.wf = true → m.glyphs = m'.glyphs → (∀ a, m.read a = m'.read a) → m = m'

/-- The model's choice (notes/assumptions/1.md, 4.md, 5.md), on its three records: every host action other than `Step` (`Reset`, and `Load` with either reply, among them) leaves the sticky record and
the step number as they are; `Reset` and a `Load` that answers ok leave the record of the outputs quiet, and every other one leaves it as it is. -/
def Obligations.ModelRecordsSurviveHostActions : Prop :=
  ∀ (s t : State) (a : HostAction) (r : HostReply), a ≠ .step → act a s = .next (t, r) →
    t.firstDiag = s.firstDiag ∧ t.stepNo = s.stepNo ∧
    (a = .reset ∨ (∃ bytes, a = .load bytes ∧ r = .ok) → t.out = { diag := none, renderEvent := false, soundEvent := false }) ∧
    (a ≠ .reset → (∀ bytes, a ≠ .load bytes ∨ r ≠ .ok) → t.out = s.out)

/-- Every host action, `Step` among them, keeps the invariant (R29), from every state that satisfies it. -/
def Obligations.HostActionsKeepInvariant : Prop :=
  ∀ (s t : State) (a : HostAction) (r : HostReply), s.Inv → act a s = .next (t, r) → t.Inv

/-- The model's choice (notes/assumptions/1.md): the step number is one higher after every step whose fetch succeeded, and the same after one whose fetch failed. -/
def Obligations.StepNumberCountsFetchedSteps : Prop :=
  ∀ s t : State, step s = .next t →
    (s.pc.toNat ≤ 0xFFE → t.stepNo = s.stepNo + 1) ∧ (s.pc.toNat > 0xFFE → t.stepNo = s.stepNo)
end

