-- ==== Sys2Proof/Laws/Encoding.lean ====
section
/-! SUPPORT. The fields of an encoded word, format by format, and bytes against words. -/

namespace Sys2Proof

/-- The low part of a concatenation. -/
theorem extract_low {m n : Nat} (a : BitVec m) (b : BitVec n) : (a ++ b).extractLsb' 0 n = b := by
  ext i hi
  simp only [BitVec.getElem_extractLsb', BitVec.getLsbD_append, Nat.zero_add, hi]
  simp [BitVec.getLsbD_eq_getElem hi]

/-- A part of the high part of a concatenation. -/
theorem extract_high {m n : Nat} (a : BitVec m) (b : BitVec n) (k l : Nat) :
    (a ++ b).extractLsb' (n + k) l = a.extractLsb' k l := by
  ext i hi
  simp only [BitVec.getElem_extractLsb', BitVec.getLsbD_append]
  rw [if_neg (by omega), show n + k + i - n = k + i by omega]

/-- The whole of a word is a part of it. -/
theorem extract_all {m : Nat} (a : BitVec m) : a.extractLsb' 0 m = a := by
  ext i hi; simp

/-- The fields of a word in format A (30_encoding.md R62). -/
theorem fields_formatA (op : BitVec 4) (nnn : Addr12) :
    fieldOp (formatA op nnn) = op.toNat ∧ fieldNNN (formatA op nnn) = nnn :=
  ⟨congrArg BitVec.toNat ((extract_high op nnn 0 4).trans (extract_all op)), extract_low op nnn⟩

/-- The fields of a word in format XK or X (R62). -/
theorem fields_formatXK (op : BitVec 4) (x : Reg) (kk : Byte) :
    fieldOp (formatXK op x kk) = op.toNat ∧ fieldX (formatXK op x kk) = x ∧ fieldKK (formatXK op x kk) = kk :=
  ⟨congrArg BitVec.toNat ((extract_high (op ++ nibble x) kk 4 4).trans ((extract_high op (nibble x) 0 4).trans (extract_all op))),
   congrArg BitVec.toFin ((extract_high (op ++ nibble x) kk 0 4).trans (extract_low op (nibble x))),
   extract_low (op ++ nibble x) kk⟩

/-- The fields of a word in format XYN or XY (R62). -/
theorem fields_formatXYN (op : BitVec 4) (x y : Reg) (n : Rows) :
    fieldOp (formatXYN op x y n) = op.toNat ∧ fieldX (formatXYN op x y n) = x ∧ fieldY (formatXYN op x y n) = y ∧
      fieldN (formatXYN op x y n) = n :=
  ⟨congrArg BitVec.toNat ((extract_high (op ++ nibble x ++ nibble y) (nibble n) 8 4).trans
      ((extract_high (op ++ nibble x) (nibble y) 4 4).trans ((extract_high op (nibble x) 0 4).trans (extract_all op)))),
   congrArg BitVec.toFin ((extract_high (op ++ nibble x ++ nibble y) (nibble n) 4 4).trans
      ((extract_high (op ++ nibble x) (nibble y) 0 4).trans (extract_low op (nibble x)))),
   congrArg BitVec.toFin ((extract_high (op ++ nibble x ++ nibble y) (nibble n) 0 4).trans (extract_low (op ++ nibble x) (nibble y))),
   congrArg BitVec.toFin (extract_low (op ++ nibble x ++ nibble y) (nibble n))⟩

/-- A word's number from its four nibbles (30_encoding.md R61). -/
theorem toNat_of_fields (w : Word) :
    w.toNat = fieldOp w * 4096 + (fieldX w).val * 256 + (fieldY w).val * 16 + (fieldN w).val := by
  have := w.isLt
  simp [fieldOp, fieldX, fieldY, fieldN, BitVec.extractLsb', Nat.shiftRight_eq_div_pow]; omega

/-- `kk = {y, n}` (R61). -/
theorem toNat_fieldKK (w : Word) : (fieldKK w).toNat = (fieldY w).val * 16 + (fieldN w).val := by
  have := w.isLt
  simp [fieldKK, fieldY, fieldN, BitVec.extractLsb', Nat.shiftRight_eq_div_pow]; omega

/-- `nnn = {x, y, n}` (R61). -/
theorem toNat_fieldNNN (w : Word) :
    (fieldNNN w).toNat = (fieldX w).val * 256 + (fieldY w).val * 16 + (fieldN w).val := by
  have := w.isLt
  simp [fieldNNN, fieldX, fieldY, fieldN, BitVec.extractLsb', Nat.shiftRight_eq_div_pow]; omega

theorem fieldOp_lt (w : Word) : fieldOp w < 16 := (w.extractLsb' 12 4).isLt

/-- A word's number from `op` and `nnn`, and from `op`, `x` and `kk`. -/
theorem toNat_of_op_nnn (w : Word) : w.toNat = fieldOp w * 4096 + (fieldNNN w).toNat := by
  rw [toNat_of_fields w, toNat_fieldNNN]; omega

theorem toNat_of_op_x_kk (w : Word) : w.toNat = fieldOp w * 4096 + (fieldX w).val * 256 + (fieldKK w).toNat := by
  rw [toNat_of_fields w, toNat_fieldKK]; omega

/-- The numbers of the words that the three formats build (R62). -/
theorem toNat_formatA (op : BitVec 4) (nnn : Addr12) : (formatA op nnn).toNat = op.toNat * 4096 + nnn.toNat := by
  obtain ⟨a, b⟩ := fields_formatA op nnn
  rw [toNat_of_op_nnn, a, b]

theorem toNat_formatXK (op : BitVec 4) (x : Reg) (kk : Byte) :
    (formatXK op x kk).toNat = op.toNat * 4096 + x.val * 256 + kk.toNat := by
  obtain ⟨a, b, c⟩ := fields_formatXK op x kk
  rw [toNat_of_op_x_kk, a, b, c]

theorem toNat_formatXYN (op : BitVec 4) (x y : Reg) (n : Rows) :
    (formatXYN op x y n).toNat = op.toNat * 4096 + x.val * 256 + y.val * 16 + n.val := by
  obtain ⟨a, b, c, d⟩ := fields_formatXYN op x y n
  rw [toNat_of_fields, a, b, c, d]

/-- A word is its high byte, then its low byte (20_memory.md R44). -/
@[simp] theorem wordOfBytes_hi_lo (w : Word) : wordOfBytes (hiByte w) (loByte w) = w := by
  refine BitVec.eq_of_getLsbD_eq fun i hi => ?_
  refine (BitVec.getLsbD_append (x := hiByte w) (y := loByte w)).trans ?_
  split
  · simp only [loByte, BitVec.getLsbD_extractLsb', Nat.zero_add, Bool.and_eq_right_iff_imp, decide_eq_true_eq]; intro; assumption
  · simp only [hiByte, BitVec.getLsbD_extractLsb']
    rw [show 8 + (i - 8) = i by omega, decide_eq_true (by omega), Bool.true_and]

/-- Decoding a word's two bytes decodes the word. -/
theorem decodeBytes_bytesOfWord (w : Word) (rest : List Byte) :
    decodeBytes (bytesOfWord w ++ rest) =
      match decodeWord w with
      | some i => .ok (i, rest)
      | none => .error (.unknownInstruction w) := by
  cases h : decodeWord w <;> simp [bytesOfWord, decodeBytes, h]

/-- Every instruction passes the check of well-formedness: the operand types have the fields' widths. -/
theorem instr_wellFormed (i : Instr) : i.wellFormed = true := by
  have h4 : ∀ x : Fin 16, operandFits 4 x.val = true := fun x => by simp [operandFits, x.isLt]
  have h8 : ∀ b : Byte, operandFits 8 b.toNat = true := fun b => by simpa [operandFits] using b.isLt
  have h12 : ∀ a : Addr12, operandFits 12 a.toNat = true := fun a => by simpa [operandFits] using a.isLt
  cases i <;> simp [Instr.wellFormed, h4, h8, h12]

end Sys2Proof
end

