-- ==== Sys2Proof/Laws/Framebuffer.lean ====
section
/-! SUPPORT. The framebuffer by its cells: toggling, the dark screen, and one sprite bit. -/

namespace Sys2Proof.Machine

@[simp] theorem cell_dark (k : Nat) : Framebuffer.dark.cell k = false := by
  simp [Framebuffer.cell, Framebuffer.dark]

/-- There is no cell from 2048 up. -/
theorem cell_of_le (fb : Framebuffer) {k : Nat} (h : Config.fbCells ≤ k) : fb.cell k = false := by
  rw [Framebuffer.cell, dif_neg]
  simp only [Config.fbCells] at h; omega

/-- Toggling a cell that exists inverts it and leaves every other cell. -/
theorem cell_toggle (fb : Framebuffer) {a : Nat} (ha : a < Config.fbCells) (k : Nat) :
    (fb.toggle a).cell k = if k = a then !fb.cell k else fb.cell k := by
  simp only [Config.fbCells] at ha
  have ha' : a / 64 < 32 := by omega
  simp only [Framebuffer.toggle, dif_pos ha', Framebuffer.cell]
  by_cases hk : k / 64 < 32
  · simp only [dif_pos hk, Vector.getElem_set]
    by_cases hr : a / 64 = k / 64
    · rw [if_pos hr]
      by_cases hka : k = a
      · subst hka
        simp [Nat.mod_lt]
      · rw [if_neg hka]
        have : a % 64 ≠ k % 64 := by omega
        simp [BitVec.getLsbD_xor, BitVec.getLsbD_twoPow, this, hr]
    · rw [if_neg hr, if_neg (by rintro rfl; exact hr rfl)]
  · simp only [dif_neg hk]
    rw [if_neg (by rintro rfl; exact hk ha')]

/-- Two framebuffers with the same cells are the same. -/
theorem framebuffer_ext {f g : Framebuffer} (h : ∀ k < Config.fbCells, f.cell k = g.cell k) : f = g := by
  refine Vector.ext fun r hr => BitVec.eq_of_getLsbD_eq fun c hc => ?_
  have := h (r * 64 + c) (by simp only [Config.fbCells]; omega)
  have hd : (r * 64 + c) / 64 = r := by omega
  have hm : (r * 64 + c) % 64 = c := by omega
  simpa [Framebuffer.cell, hd, hm, hr] using this

/-- One sprite bit that is 1: in range its cell is inverted, out of range nothing changes (42_display.md R121). -/
theorem cell_plot (d : Framebuffer × Bool) (a k : Nat) :
    (plot d a).1.cell k = if k = a ∧ a < Config.fbCells then !d.1.cell k else d.1.cell k := by
  unfold plot
  split
  · rename_i h; simp [cell_toggle _ h, h]
  · rename_i h; simp [h]

/-- One sprite bit that is 1 collides iff its cell was lit, which an out-of-range cell never is (R121). -/
theorem hit_plot (d : Framebuffer × Bool) (a : Nat) : (plot d a).2 = (d.2 || d.1.cell a) := by
  unfold plot
  split
  · rfl
  · rename_i h; simp [cell_of_le d.1 (by omega : Config.fbCells ≤ a)]

end Sys2Proof.Machine
end

