-- ==== Sys2Proof/Laws/Memory.lean ====
section
/-! SUPPORT. What the memory operations do: which of them answer, read after write, and that every one of them keeps the canonical form. -/

namespace Sys2Proof.Machine

/-! ## The list of cells -/

theorem cellsWf_cons (initial : Nat → Byte) (lo : Nat) (c : Host.Cell) (rest : List Host.Cell) :
    cellsWf initial lo (c :: rest) = true ↔
      lo ≤ c.1 ∧ c.1 < Config.memSize ∧ c.2 ≠ initial c.1 ∧ cellsWf initial (c.1 + 1) rest = true := by
  simp [cellsWf, and_assoc]

theorem cellsWf_weaken {initial : Nat → Byte} {lo lo' : Nat} {cs : List Host.Cell} (h : cellsWf initial lo cs = true)
    (hlo : lo' ≤ lo) : cellsWf initial lo' cs = true := by
  cases cs with
  | nil => rfl
  | cons c rest => rw [cellsWf_cons] at *; exact ⟨by omega, h.2⟩

/-- An address below every listed one is not listed. -/
theorem findCell_below {initial : Nat → Byte} {lo a : Nat} {cs : List Host.Cell} (h : cellsWf initial lo cs = true) (ha : a < lo) :
    findCell cs a = none := by
  induction cs generalizing lo with
  | nil => rfl
  | cons c rest ih =>
    rw [cellsWf_cons] at h
    rw [findCell, if_neg (by omega), ih h.2.2.2 (by omega)]

/-- `putCell` changes what is listed for its own address only. -/
theorem findCell_putCell {initial : Nat → Byte} {lo : Nat} {cs : List Host.Cell} (h : cellsWf initial lo cs = true) (a k : Nat)
    (b : Option Byte) : findCell (putCell cs a b) k = if k = a then b else findCell cs k := by
  induction cs generalizing lo with
  | nil => cases b <;> simp [putCell, findCell, eq_comm]
  | cons c rest ih =>
    rw [cellsWf_cons] at h
    rw [putCell]
    split
    · rw [findCell, ih h.2.2.2, findCell]; split <;> split <;> first | rfl | omega
    · split
      · subst a
        rcases eq_or_ne k c.1 with rfl | hk
        · cases b <;> simp [findCell, findCell_below h.2.2.2 (Nat.lt_succ_self _)]
        · cases b <;> simp [findCell, hk, hk.symm]
      · rcases eq_or_ne k a with rfl | hk
        · cases b <;> simp [findCell]
          rw [if_neg (by omega), findCell_below h.2.2.2 (by omega)]
        · cases b <;> simp [findCell, hk, hk.symm]

/-- A listed byte is not the one its address reads as when unlisted. -/
theorem findCell_ne_initial {initial : Nat → Byte} {lo a : Nat} {b : Byte} {cs : List Host.Cell} (h : cellsWf initial lo cs = true)
    (hf : findCell cs a = some b) : b ≠ initial a := by
  induction cs generalizing lo with
  | nil => simp [findCell] at hf
  | cons c rest ih =>
    rw [cellsWf_cons] at h
    rw [findCell] at hf
    split at hf
    · rename_i hc; cases hf; exact hc ▸ h.2.2.1
    · exact ih h.2.2.2 hf

/-- `putCell` keeps the canonical form, when the byte put in is not the address's unlisted value. -/
theorem cellsWf_putCell {initial : Nat → Byte} {lo a : Nat} {b : Option Byte} {cs : List Host.Cell} (h : cellsWf initial lo cs = true)
    (hlo : lo ≤ a) (ha : a < Config.memSize) (hb : b ≠ some (initial a)) : cellsWf initial lo (putCell cs a b) = true := by
  have put : ∀ lo' ≤ a, ∀ rest, cellsWf initial (a + 1) rest = true → cellsWf initial lo' ((b.map (a, ·)).toList ++ rest) = true := by
    intro lo' hlo' rest hr
    cases b with
    | none => exact cellsWf_weaken hr (by omega)
    | some b => exact (cellsWf_cons ..).2 ⟨hlo', ha, fun e => hb (congrArg some e), hr⟩
  induction cs generalizing lo with
  | nil => simpa [putCell] using put lo hlo [] rfl
  | cons c rest ih =>
    have hc := (cellsWf_cons ..).1 h
    rw [putCell]
    split
    · exact (cellsWf_cons ..).2 ⟨hc.1, hc.2.1, hc.2.2.1, ih hc.2.2.2 (by omega)⟩
    · split
      · rename_i e; exact put lo hlo rest (e ▸ hc.2.2.2)
      · exact put lo hlo _ ((cellsWf_cons ..).2 ⟨by omega, hc.2⟩)

/-! ## One byte -/

/-- `MemRead` answers exactly at the addresses that exist (20_memory.md R41). -/
theorem read_isSome (m : Memory) (a : Nat) : (m.read a).isSome ↔ a < Config.memSize := by
  unfold Memory.read; split <;> simp [*]

theorem read_eq_none (m : Memory) (a : Nat) : m.read a = none ↔ Config.memSize ≤ a := by
  unfold Memory.read; split <;> simp <;> omega

/-- `MemWrite` answers exactly at the addresses that exist (20_memory.md R41). -/
theorem write_isSome (m : Memory) (a : Nat) (b : Byte) : (m.write a b).isSome ↔ a < Config.memSize := by
  unfold Memory.write; split <;> simp [*]

/-- Everything a byte's write can do: the address exists, the glyph parameter stays, the form is kept, and reading gives the byte
at its address and the old byte at every other. -/
theorem write_spec {m m' : Memory} {a : Nat} {b : Byte} (hw : m.wf = true) (h : m.write a b = some m') :
    a < Config.memSize ∧ m'.glyphs = m.glyphs ∧ m'.wf = true ∧ ∀ k, m'.read k = if k = a then some b else m.read k := by
  unfold Memory.write at h
  split at h <;> simp at h
  rename_i ha
  subst h
  refine ⟨ha, rfl, ?_, fun k => ?_⟩
  · refine cellsWf_putCell hw (Nat.zero_le a) ha ?_
    split <;> simp_all [Memory.initial]
  · simp only [Memory.read, findCell_putCell hw]
    rcases eq_or_ne k a with rfl | hk
    · simp only [ha, if_true]
      by_cases hb : b = m.initial k
      · simp [hb]; rfl
      · simp [hb]
    · simp [hk, Memory.initial]

/-! ## Blocks of bytes -/

/-- A block can be read iff every one of its addresses exists (60_exceptions.md R156). -/
theorem readBlock_isSome (m : Memory) (a n : Nat) : (m.readBlock a n).isSome ↔ n = 0 ∨ a + n ≤ Config.memSize := by
  induction n generalizing a with
  | zero => simp [Memory.readBlock]
  | succ n ih =>
    have h1 := read_isSome m a
    have h2 := ih (a + 1)
    unfold Memory.readBlock
    cases h : m.read a <;> cases h' : m.readBlock (a + 1) n <;> (simp_all; try omega)

theorem readBlock_eq_none (m : Memory) (a n : Nat) : m.readBlock a n = none ↔ n ≠ 0 ∧ Config.memSize < a + n := by
  have := readBlock_isSome m a n
  rcases h : m.readBlock a n with _ | bs
  · simp_all
  · simp_all; omega

/-- A block's bytes are the bytes of its addresses, in order. -/
theorem readBlock_spec {m : Memory} {a n : Nat} {bs : List Byte} (h : m.readBlock a n = some bs) :
    bs.length = n ∧ ∀ j < n, m.read (a + j) = bs[j]? := by
  induction n generalizing a bs with
  | zero => simp [Memory.readBlock] at h; simp [← h]
  | succ n ih =>
    unfold Memory.readBlock at h
    split at h <;> simp at h
    rename_i b bs' hb hbs
    subst h
    obtain ⟨hl, hr⟩ := ih hbs
    refine ⟨by simp [hl], fun j hj => ?_⟩
    cases j with
    | zero => simpa using hb
    | succ j => rw [show a + (j + 1) = a + 1 + j by omega]; simpa using hr j (by omega)

/-- A block can be written iff every one of its addresses exists (60_exceptions.md R156). -/
theorem writeBlock_isSome (m : Memory) (a : Nat) (bs : List Byte) :
    (m.writeBlock a bs).isSome ↔ bs = [] ∨ a + bs.length ≤ Config.memSize := by
  induction bs generalizing a with
  | nil => simp [Memory.writeBlock]
  | cons b bs ih =>
    have h2 := ih (a + 1)
    unfold Memory.writeBlock
    cases h' : m.writeBlock (a + 1) bs with
    | none => cases bs <;> simp_all; omega
    | some m' =>
      simp only [write_isSome, List.length_cons, reduceCtorEq, false_or]
      cases bs
      · simp_all
      · simp_all; omega

theorem writeBlock_eq_none (m : Memory) (a : Nat) (bs : List Byte) :
    m.writeBlock a bs = none ↔ bs ≠ [] ∧ Config.memSize < a + bs.length := by
  have := writeBlock_isSome m a bs
  rcases h : m.writeBlock a bs with _ | m' <;> simp_all
  exact fun hn => this.resolve_left hn

/-- Everything a block's write can do: the glyph parameter stays, the form is kept, and reading gives the block's bytes at its addresses
and the old byte at every other. -/
theorem writeBlock_spec {m m' : Memory} {a : Nat} {bs : List Byte} (hw : m.wf = true) (h : m.writeBlock a bs = some m') :
    m'.glyphs = m.glyphs ∧ m'.wf = true ∧ ∀ k, m'.read k = if a ≤ k ∧ k < a + bs.length then bs[k - a]? else m.read k := by
  induction bs generalizing a m' with
  | nil =>
    simp [Memory.writeBlock] at h
    subst h
    exact ⟨rfl, hw, fun k => by rw [if_neg (by simp)]⟩
  | cons b bs ih =>
    unfold Memory.writeBlock at h
    split at h <;> try simp at h
    rename_i m1 h1
    obtain ⟨hg, hw1, hr1⟩ := ih h1
    obtain ⟨-, hg2, hw2, hr2⟩ := write_spec hw1 h
    refine ⟨hg2.trans hg, hw2, fun k => ?_⟩
    rw [hr2, hr1]
    rcases Nat.lt_trichotomy k a with hk | rfl | hk
    · rw [if_neg (by omega), if_neg (by omega), if_neg (by omega)]
    · simp
    · rw [if_neg (by omega)]
      obtain ⟨d, rfl⟩ : ∃ d, k = a + 1 + d := ⟨k - a - 1, by omega⟩
      rw [show a + 1 + d - (a + 1) = d by omega, show a + 1 + d - a = d + 1 by omega]
      simp only [List.length_cons, List.getElem?_cons_succ]
      congr 1
      simp only [eq_iff_iff]
      omega

/-- A block's write keeps the canonical form. -/
theorem writeBlock_wf {m m' : Memory} {a : Nat} {bs : List Byte} (hw : m.wf = true) (h : m.writeBlock a bs = some m') : m'.wf = true :=
  (writeBlock_spec hw h).2.1

/-- A block's write keeps the glyph parameter, in any memory. -/
theorem writeBlock_glyphs {m m' : Memory} {a : Nat} {bs : List Byte} (h : m.writeBlock a bs = some m') : m'.glyphs = m.glyphs := by
  induction bs generalizing a m' with
  | nil => simp [Memory.writeBlock] at h; rw [h]
  | cons b bs ih =>
    unfold Memory.writeBlock at h
    split at h <;> try simp at h
    rename_i m1 h1
    unfold Memory.write at h
    split at h <;> simp at h
    have hg := ih h1
    subst h; exact hg

end Sys2Proof.Machine
end

