-- ==== Sys2Proof/Laws/PerInstr.lean ====
section
/-! SUPPORT. Statements made per instruction. Family `EncodesItsRow`: an instruction's word selects the row of the opcode map that
bears its mnemonic (30_encoding.md R65). -/

namespace Sys2Proof.Laws

/-- What each mask of the opcode map keeps of each format: the fields that no operand fills. -/
theorem formatA_and (op : BitVec 4) (nnn : Addr12) : formatA op nnn &&& 0xF000#16 = op ++ 0#12 := by
  refine (BitVec.and_append (x₁ := op) (y₁ := nnn) (x₂ := 0xF#4) (y₂ := 0#12)).trans ?_
  rw [BitVec.and_zero, show (0xF#4) = BitVec.allOnes 4 from rfl, BitVec.and_allOnes]

theorem formatXK_and_op (op : BitVec 4) (x : Reg) (kk : Byte) : formatXK op x kk &&& 0xF000#16 = op ++ 0#4 ++ 0#8 := by
  refine (BitVec.and_append (x₁ := op ++ nibble x) (y₁ := kk) (x₂ := 0xF#4 ++ 0#4) (y₂ := 0#8)).trans ?_
  rw [BitVec.and_zero, BitVec.and_append, BitVec.and_zero, show (0xF#4) = BitVec.allOnes 4 from rfl, BitVec.and_allOnes]

theorem formatXK_and (op : BitVec 4) (x : Reg) (kk : Byte) : formatXK op x kk &&& 0xF0FF#16 = op ++ 0#4 ++ kk := by
  refine (BitVec.and_append (x₁ := op ++ nibble x) (y₁ := kk) (x₂ := 0xF#4 ++ 0#4) (y₂ := 0xFF#8)).trans ?_
  rw [show (0xFF#8) = BitVec.allOnes 8 from rfl, BitVec.and_allOnes, BitVec.and_append, BitVec.and_zero,
    show (0xF#4) = BitVec.allOnes 4 from rfl, BitVec.and_allOnes]

theorem formatXYN_and (op : BitVec 4) (x y : Reg) (n : Rows) :
    formatXYN op x y n &&& 0xF00F#16 = op ++ 0#4 ++ 0#4 ++ nibble n := by
  refine (BitVec.and_append (x₁ := op ++ nibble x ++ nibble y) (y₁ := nibble n) (x₂ := 0xF#4 ++ 0#4 ++ 0#4) (y₂ := 0xF#4)).trans ?_
  rw [show (0xF#4) = BitVec.allOnes 4 from rfl, BitVec.and_allOnes, BitVec.and_append, BitVec.and_zero, BitVec.and_append,
    BitVec.and_zero, BitVec.and_allOnes]

theorem formatXYN_and_op (op : BitVec 4) (x y : Reg) (n : Rows) :
    formatXYN op x y n &&& 0xF000#16 = op ++ 0#4 ++ 0#4 ++ 0#4 := by
  refine (BitVec.and_append (x₁ := op ++ nibble x ++ nibble y) (y₁ := nibble n) (x₂ := 0xF#4 ++ 0#4 ++ 0#4) (y₂ := 0#4)).trans ?_
  rw [show (0xF#4) = BitVec.allOnes 4 from rfl, BitVec.and_zero, BitVec.and_append, BitVec.and_zero, BitVec.and_append,
    BitVec.and_zero, BitVec.and_allOnes]

/-- The row's mask and pattern fit the instruction's word, and the row's mnemonic is the instruction's. -/
def EncodesItsRow.Statement (i : Instr) : Prop :=
  ∃ r ∈ opTable, r.mnemonic = mnemonicOf i ∧ r.selects (encode i) = true

/-- A row of the map that selects a word, from the word under the row's mask. -/
theorem encodesItsRow_intro {i : Instr} (r : OpRow) (hr : r ∈ opTable) (hm : r.mnemonic = mnemonicOf i)
    (hw : encode i &&& r.mask = r.pattern) : EncodesItsRow.Statement i :=
  ⟨r, hr, hm, by simp [OpRow.selects, hw]⟩

theorem EncodesItsRow.cls : EncodesItsRow.Statement .cls :=
  encodesItsRow_intro ⟨"CLS", 0xFFFF, 0x00E0⟩ (by decide) rfl (by decide)

theorem EncodesItsRow.ret : EncodesItsRow.Statement .ret :=
  encodesItsRow_intro ⟨"RET", 0xFFFF, 0x00EE⟩ (by decide) rfl (by decide)

theorem EncodesItsRow.jp (nnn : Addr12) : EncodesItsRow.Statement (.jp nnn) :=
  encodesItsRow_intro ⟨"JP_nnn", 0xF000, 0x1000⟩ (by decide) rfl (formatA_and _ _)

theorem EncodesItsRow.call (nnn : Addr12) : EncodesItsRow.Statement (.call nnn) :=
  encodesItsRow_intro ⟨"CALL_nnn", 0xF000, 0x2000⟩ (by decide) rfl (formatA_and _ _)

theorem EncodesItsRow.seImm (x : Reg) (kk : Byte) : EncodesItsRow.Statement (.seImm x kk) :=
  encodesItsRow_intro ⟨"SE_Vx_kk", 0xF000, 0x3000⟩ (by decide) rfl (formatXK_and_op _ _ _)

theorem EncodesItsRow.sneImm (x : Reg) (kk : Byte) : EncodesItsRow.Statement (.sneImm x kk) :=
  encodesItsRow_intro ⟨"SNE_Vx_kk", 0xF000, 0x4000⟩ (by decide) rfl (formatXK_and_op _ _ _)

theorem EncodesItsRow.seReg (x : Reg) (y : Reg) : EncodesItsRow.Statement (.seReg x y) :=
  encodesItsRow_intro ⟨"SE_Vx_Vy", 0xF00F, 0x5000⟩ (by decide) rfl (formatXYN_and _ _ _ _)

theorem EncodesItsRow.ldImm (x : Reg) (kk : Byte) : EncodesItsRow.Statement (.ldImm x kk) :=
  encodesItsRow_intro ⟨"LD_Vx_kk", 0xF000, 0x6000⟩ (by decide) rfl (formatXK_and_op _ _ _)

theorem EncodesItsRow.addImm (x : Reg) (kk : Byte) : EncodesItsRow.Statement (.addImm x kk) :=
  encodesItsRow_intro ⟨"ADD_Vx_kk", 0xF000, 0x7000⟩ (by decide) rfl (formatXK_and_op _ _ _)

theorem EncodesItsRow.ldReg (x : Reg) (y : Reg) : EncodesItsRow.Statement (.ldReg x y) :=
  encodesItsRow_intro ⟨"LD_Vx_Vy", 0xF00F, 0x8000⟩ (by decide) rfl (formatXYN_and _ _ _ _)

theorem EncodesItsRow.or (x : Reg) (y : Reg) : EncodesItsRow.Statement (.or x y) :=
  encodesItsRow_intro ⟨"OR_Vx_Vy", 0xF00F, 0x8001⟩ (by decide) rfl (formatXYN_and _ _ _ _)

theorem EncodesItsRow.and (x : Reg) (y : Reg) : EncodesItsRow.Statement (.and x y) :=
  encodesItsRow_intro ⟨"AND_Vx_Vy", 0xF00F, 0x8002⟩ (by decide) rfl (formatXYN_and _ _ _ _)

theorem EncodesItsRow.xor (x : Reg) (y : Reg) : EncodesItsRow.Statement (.xor x y) :=
  encodesItsRow_intro ⟨"XOR_Vx_Vy", 0xF00F, 0x8003⟩ (by decide) rfl (formatXYN_and _ _ _ _)

theorem EncodesItsRow.addReg (x : Reg) (y : Reg) : EncodesItsRow.Statement (.addReg x y) :=
  encodesItsRow_intro ⟨"ADD_Vx_Vy", 0xF00F, 0x8004⟩ (by decide) rfl (formatXYN_and _ _ _ _)

theorem EncodesItsRow.sub (x : Reg) (y : Reg) : EncodesItsRow.Statement (.sub x y) :=
  encodesItsRow_intro ⟨"SUB_Vx_Vy", 0xF00F, 0x8005⟩ (by decide) rfl (formatXYN_and _ _ _ _)

theorem EncodesItsRow.shr (x : Reg) (y : Reg) : EncodesItsRow.Statement (.shr x y) :=
  encodesItsRow_intro ⟨"SHR_Vx", 0xF00F, 0x8006⟩ (by decide) rfl (formatXYN_and _ _ _ _)

theorem EncodesItsRow.subn (x : Reg) (y : Reg) : EncodesItsRow.Statement (.subn x y) :=
  encodesItsRow_intro ⟨"SUBN_Vx_Vy", 0xF00F, 0x8007⟩ (by decide) rfl (formatXYN_and _ _ _ _)

theorem EncodesItsRow.shl (x : Reg) (y : Reg) : EncodesItsRow.Statement (.shl x y) :=
  encodesItsRow_intro ⟨"SHL_Vx", 0xF00F, 0x800E⟩ (by decide) rfl (formatXYN_and _ _ _ _)

theorem EncodesItsRow.sneReg (x : Reg) (y : Reg) : EncodesItsRow.Statement (.sneReg x y) :=
  encodesItsRow_intro ⟨"SNE_Vx_Vy", 0xF00F, 0x9000⟩ (by decide) rfl (formatXYN_and _ _ _ _)

theorem EncodesItsRow.ldI (nnn : Addr12) : EncodesItsRow.Statement (.ldI nnn) :=
  encodesItsRow_intro ⟨"LD_I_nnn", 0xF000, 0xA000⟩ (by decide) rfl (formatA_and _ _)

theorem EncodesItsRow.jpV0 (nnn : Addr12) : EncodesItsRow.Statement (.jpV0 nnn) :=
  encodesItsRow_intro ⟨"JP_V0_nnn", 0xF000, 0xB000⟩ (by decide) rfl (formatA_and _ _)

theorem EncodesItsRow.rnd (x : Reg) (kk : Byte) : EncodesItsRow.Statement (.rnd x kk) :=
  encodesItsRow_intro ⟨"RND_Vx_kk", 0xF000, 0xC000⟩ (by decide) rfl (formatXK_and_op _ _ _)

theorem EncodesItsRow.drw (x : Reg) (y : Reg) (n : Rows) : EncodesItsRow.Statement (.drw x y n) :=
  encodesItsRow_intro ⟨"DRW_Vx_Vy_n", 0xF000, 0xD000⟩ (by decide) rfl (formatXYN_and_op _ _ _ _)

theorem EncodesItsRow.skp (x : Reg) : EncodesItsRow.Statement (.skp x) :=
  encodesItsRow_intro ⟨"SKP_Vx", 0xF0FF, 0xE09E⟩ (by decide) rfl (formatXK_and _ _ _)

theorem EncodesItsRow.sknp (x : Reg) : EncodesItsRow.Statement (.sknp x) :=
  encodesItsRow_intro ⟨"SKNP_Vx", 0xF0FF, 0xE0A1⟩ (by decide) rfl (formatXK_and _ _ _)

theorem EncodesItsRow.ldVxDT (x : Reg) : EncodesItsRow.Statement (.ldVxDT x) :=
  encodesItsRow_intro ⟨"LD_Vx_DT", 0xF0FF, 0xF007⟩ (by decide) rfl (formatXK_and _ _ _)

theorem EncodesItsRow.ldVxK (x : Reg) : EncodesItsRow.Statement (.ldVxK x) :=
  encodesItsRow_intro ⟨"LD_Vx_K", 0xF0FF, 0xF00A⟩ (by decide) rfl (formatXK_and _ _ _)

theorem EncodesItsRow.ldDTVx (x : Reg) : EncodesItsRow.Statement (.ldDTVx x) :=
  encodesItsRow_intro ⟨"LD_DT_Vx", 0xF0FF, 0xF015⟩ (by decide) rfl (formatXK_and _ _ _)

theorem EncodesItsRow.ldSTVx (x : Reg) : EncodesItsRow.Statement (.ldSTVx x) :=
  encodesItsRow_intro ⟨"LD_ST_Vx", 0xF0FF, 0xF018⟩ (by decide) rfl (formatXK_and _ _ _)

theorem EncodesItsRow.addI (x : Reg) : EncodesItsRow.Statement (.addI x) :=
  encodesItsRow_intro ⟨"ADD_I_Vx", 0xF0FF, 0xF01E⟩ (by decide) rfl (formatXK_and _ _ _)

theorem EncodesItsRow.ldF (x : Reg) : EncodesItsRow.Statement (.ldF x) :=
  encodesItsRow_intro ⟨"LD_F_Vx", 0xF0FF, 0xF029⟩ (by decide) rfl (formatXK_and _ _ _)

theorem EncodesItsRow.ldB (x : Reg) : EncodesItsRow.Statement (.ldB x) :=
  encodesItsRow_intro ⟨"LD_B_Vx", 0xF0FF, 0xF033⟩ (by decide) rfl (formatXK_and _ _ _)

theorem EncodesItsRow.storeRegs (x : Reg) : EncodesItsRow.Statement (.storeRegs x) :=
  encodesItsRow_intro ⟨"LD__I__Vx", 0xF0FF, 0xF055⟩ (by decide) rfl (formatXK_and _ _ _)

theorem EncodesItsRow.loadRegs (x : Reg) : EncodesItsRow.Statement (.loadRegs x) :=
  encodesItsRow_intro ⟨"LD_Vx__I", 0xF0FF, 0xF065⟩ (by decide) rfl (formatXK_and _ _ _)

end Sys2Proof.Laws
end

