-- ==== Sys2Proof/Laws/Registers.lean ====
section
/-! SUPPORT. Reading registers after writing them, the block of registers, and the values of the flags. -/

namespace Sys2Proof.Machine

/-- A register reads as what was written to it, and every other as before (10_state.md R11: no aliases, no hardwired register). -/
@[simp] theorem getV_setV (s : State) (x y : Reg) (b : Byte) : (s.setV x b).getV y = if y = x then b else s.getV y := by
  simp only [State.getV, State.setV, Vector.getElem_set, Fin.ext_iff, eq_comm]

/-- After a result and a flag, register F reads as the flag, whatever the destination was (41_arith_logic.md R112). -/
@[simp] theorem getV_setResultAndFlag (s : State) (x y : Reg) (a b : Byte) :
    (s.setResultAndFlag x a b).getV y = if y = vF then b else if y = x then a else s.getV y := by
  simp [State.setResultAndFlag]

@[simp] theorem getV_advance (s : State) (x : Reg) (k : Word) : (s.advance k).getV x = s.getV x := rfl
@[simp] theorem getV_skipIf (s : State) (x : Reg) (c : Bool) : (s.skipIf c).getV x = s.getV x := rfl
@[simp] theorem getV_squash (s : State) (x : Reg) (c : Cause) (w : Word) : (s.squash c w).getV x = s.getV x := rfl
@[simp] theorem getV_display (s : State) (x : Reg) (fb : Framebuffer) : (s.display fb).getV x = s.getV x := rfl

/-- Two states agree on `v` iff they agree on every register. -/
theorem v_eq_iff (s t : State) : t.v = s.v ↔ ∀ x : Reg, t.getV x = s.getV x := by
  refine ⟨fun h x => by simp [State.getV, h], fun h => Vector.ext fun k hk => ?_⟩
  exact h ⟨k, hk⟩

@[simp] theorem length_regBlock (s : State) (x : Reg) : (s.regBlock x).length = x.val + 1 := by
  simp [State.regBlock]

/-- The block holds `V[0]` to `V[x]` in order. -/
theorem getElem?_regBlock (s : State) (x y : Reg) : (s.regBlock x)[y.val]? = if y ≤ x then some (s.getV y) else none := by
  simp only [State.regBlock, List.getElem?_take, Fin.le_def, Nat.lt_succ_iff]
  split
  · simp [State.getV]
  · rfl

/-- `setRegsFrom` writes exactly the registers from `k` on that the list has bytes for. -/
theorem getElem_setRegsFrom (v : Vector Byte 16) (k : Nat) (bs : List Byte) (j : Nat) (hj : j < 16) :
    (setRegsFrom v k bs)[j] = if k ≤ j then (bs[j - k]?).getD v[j] else v[j] := by
  induction bs generalizing v k with
  | nil => simp [setRegsFrom]
  | cons b bs ih =>
    rw [setRegsFrom, ih]
    rcases Nat.lt_trichotomy j k with h | rfl | h
    · rw [if_neg (by omega), if_neg (by omega), Vector.getElem_setIfInBounds_ne _ (by omega)]
    · simp
    · obtain ⟨d, rfl⟩ : ∃ d, j = k + 1 + d := ⟨j - k - 1, by omega⟩
      rw [if_pos (by omega), if_pos (by omega), Vector.getElem_setIfInBounds_ne _ (by omega),
        show k + 1 + d - (k + 1) = d by omega, show k + 1 + d - k = d + 1 by omega, List.getElem?_cons_succ]

theorem flagByte_eq_one (c : Bool) : flagByte c = 1#8 ↔ c = true := by cases c <;> decide

theorem flagByte_eq_zero (c : Bool) : flagByte c = 0#8 ↔ c = false := by cases c <;> decide

end Sys2Proof.Machine
end

