-- ==== Sys2Proof/Laws/State.lean ====
section
/-! SUPPORT. One lemma per field per update of the state, true by rfl, so that no proof unfolds a record update. -/

namespace Sys2Proof.Machine

variable (s : State)

/-! General registers: only `v` changes. -/

@[simp] theorem setV_mem (x : Reg) (b : Byte) : (s.setV x b).mem = s.mem := rfl
@[simp] theorem setV_v (x : Reg) (b : Byte) : (s.setV x b).v = s.v.set x.val b := rfl
@[simp] theorem setV_i (x : Reg) (b : Byte) : (s.setV x b).i = s.i := rfl
@[simp] theorem setV_pc (x : Reg) (b : Byte) : (s.setV x b).pc = s.pc := rfl
@[simp] theorem setV_stack (x : Reg) (b : Byte) : (s.setV x b).stack = s.stack := rfl
@[simp] theorem setV_sp (x : Reg) (b : Byte) : (s.setV x b).sp = s.sp := rfl
@[simp] theorem setV_dt (x : Reg) (b : Byte) : (s.setV x b).dt = s.dt := rfl
@[simp] theorem setV_st (x : Reg) (b : Byte) : (s.setV x b).st = s.st := rfl
@[simp] theorem setV_fb (x : Reg) (b : Byte) : (s.setV x b).fb = s.fb := rfl
@[simp] theorem setV_keys (x : Reg) (b : Byte) : (s.setV x b).keys = s.keys := rfl
@[simp] theorem setV_renderNeeded (x : Reg) (b : Byte) : (s.setV x b).renderNeeded = s.renderNeeded := rfl
@[simp] theorem setV_soundNeeded (x : Reg) (b : Byte) : (s.setV x b).soundNeeded = s.soundNeeded := rfl
@[simp] theorem setV_out (x : Reg) (b : Byte) : (s.setV x b).out = s.out := rfl
@[simp] theorem setV_firstDiag (x : Reg) (b : Byte) : (s.setV x b).firstDiag = s.firstDiag := rfl
@[simp] theorem setV_stepNo (x : Reg) (b : Byte) : (s.setV x b).stepNo = s.stepNo := rfl

/-! A result and a flag: only `v` changes. -/

@[simp] theorem setResultAndFlag_mem (x : Reg) (a b : Byte) : (s.setResultAndFlag x a b).mem = s.mem := rfl
@[simp] theorem setResultAndFlag_v (x : Reg) (a b : Byte) : (s.setResultAndFlag x a b).v = (s.v.set x.val a).set vF.val b := rfl
@[simp] theorem setResultAndFlag_i (x : Reg) (a b : Byte) : (s.setResultAndFlag x a b).i = s.i := rfl
@[simp] theorem setResultAndFlag_pc (x : Reg) (a b : Byte) : (s.setResultAndFlag x a b).pc = s.pc := rfl
@[simp] theorem setResultAndFlag_stack (x : Reg) (a b : Byte) : (s.setResultAndFlag x a b).stack = s.stack := rfl
@[simp] theorem setResultAndFlag_sp (x : Reg) (a b : Byte) : (s.setResultAndFlag x a b).sp = s.sp := rfl
@[simp] theorem setResultAndFlag_dt (x : Reg) (a b : Byte) : (s.setResultAndFlag x a b).dt = s.dt := rfl
@[simp] theorem setResultAndFlag_st (x : Reg) (a b : Byte) : (s.setResultAndFlag x a b).st = s.st := rfl
@[simp] theorem setResultAndFlag_fb (x : Reg) (a b : Byte) : (s.setResultAndFlag x a b).fb = s.fb := rfl
@[simp] theorem setResultAndFlag_keys (x : Reg) (a b : Byte) : (s.setResultAndFlag x a b).keys = s.keys := rfl
@[simp] theorem setResultAndFlag_renderNeeded (x : Reg) (a b : Byte) : (s.setResultAndFlag x a b).renderNeeded = s.renderNeeded := rfl
@[simp] theorem setResultAndFlag_soundNeeded (x : Reg) (a b : Byte) : (s.setResultAndFlag x a b).soundNeeded = s.soundNeeded := rfl
@[simp] theorem setResultAndFlag_out (x : Reg) (a b : Byte) : (s.setResultAndFlag x a b).out = s.out := rfl
@[simp] theorem setResultAndFlag_firstDiag (x : Reg) (a b : Byte) : (s.setResultAndFlag x a b).firstDiag = s.firstDiag := rfl
@[simp] theorem setResultAndFlag_stepNo (x : Reg) (a b : Byte) : (s.setResultAndFlag x a b).stepNo = s.stepNo := rfl

/-! The program counter: only `pc` changes. -/

@[simp] theorem advance_mem (k : Word) : (s.advance k).mem = s.mem := rfl
@[simp] theorem advance_v (k : Word) : (s.advance k).v = s.v := rfl
@[simp] theorem advance_i (k : Word) : (s.advance k).i = s.i := rfl
@[simp] theorem advance_pc (k : Word) : (s.advance k).pc = s.pc + k := rfl
@[simp] theorem advance_stack (k : Word) : (s.advance k).stack = s.stack := rfl
@[simp] theorem advance_sp (k : Word) : (s.advance k).sp = s.sp := rfl
@[simp] theorem advance_dt (k : Word) : (s.advance k).dt = s.dt := rfl
@[simp] theorem advance_st (k : Word) : (s.advance k).st = s.st := rfl
@[simp] theorem advance_fb (k : Word) : (s.advance k).fb = s.fb := rfl
@[simp] theorem advance_keys (k : Word) : (s.advance k).keys = s.keys := rfl
@[simp] theorem advance_renderNeeded (k : Word) : (s.advance k).renderNeeded = s.renderNeeded := rfl
@[simp] theorem advance_soundNeeded (k : Word) : (s.advance k).soundNeeded = s.soundNeeded := rfl
@[simp] theorem advance_out (k : Word) : (s.advance k).out = s.out := rfl
@[simp] theorem advance_firstDiag (k : Word) : (s.advance k).firstDiag = s.firstDiag := rfl
@[simp] theorem advance_stepNo (k : Word) : (s.advance k).stepNo = s.stepNo := rfl

/-! The skip: only `pc` changes. -/

@[simp] theorem skipIf_mem (c : Bool) : (s.skipIf c).mem = s.mem := rfl
@[simp] theorem skipIf_v (c : Bool) : (s.skipIf c).v = s.v := rfl
@[simp] theorem skipIf_i (c : Bool) : (s.skipIf c).i = s.i := rfl
@[simp] theorem skipIf_pc (c : Bool) : (s.skipIf c).pc = s.pc + (if c then 4 else 2) := rfl
@[simp] theorem skipIf_stack (c : Bool) : (s.skipIf c).stack = s.stack := rfl
@[simp] theorem skipIf_sp (c : Bool) : (s.skipIf c).sp = s.sp := rfl
@[simp] theorem skipIf_dt (c : Bool) : (s.skipIf c).dt = s.dt := rfl
@[simp] theorem skipIf_st (c : Bool) : (s.skipIf c).st = s.st := rfl
@[simp] theorem skipIf_fb (c : Bool) : (s.skipIf c).fb = s.fb := rfl
@[simp] theorem skipIf_keys (c : Bool) : (s.skipIf c).keys = s.keys := rfl
@[simp] theorem skipIf_renderNeeded (c : Bool) : (s.skipIf c).renderNeeded = s.renderNeeded := rfl
@[simp] theorem skipIf_soundNeeded (c : Bool) : (s.skipIf c).soundNeeded = s.soundNeeded := rfl
@[simp] theorem skipIf_out (c : Bool) : (s.skipIf c).out = s.out := rfl
@[simp] theorem skipIf_firstDiag (c : Bool) : (s.skipIf c).firstDiag = s.firstDiag := rfl
@[simp] theorem skipIf_stepNo (c : Bool) : (s.skipIf c).stepNo = s.stepNo := rfl

/-! A diagnostic: only the records change. -/

@[simp] theorem report_mem (c : Cause) (w : Word) : (s.report c w).mem = s.mem := rfl
@[simp] theorem report_v (c : Cause) (w : Word) : (s.report c w).v = s.v := rfl
@[simp] theorem report_i (c : Cause) (w : Word) : (s.report c w).i = s.i := rfl
@[simp] theorem report_pc (c : Cause) (w : Word) : (s.report c w).pc = s.pc := rfl
@[simp] theorem report_stack (c : Cause) (w : Word) : (s.report c w).stack = s.stack := rfl
@[simp] theorem report_sp (c : Cause) (w : Word) : (s.report c w).sp = s.sp := rfl
@[simp] theorem report_dt (c : Cause) (w : Word) : (s.report c w).dt = s.dt := rfl
@[simp] theorem report_st (c : Cause) (w : Word) : (s.report c w).st = s.st := rfl
@[simp] theorem report_fb (c : Cause) (w : Word) : (s.report c w).fb = s.fb := rfl
@[simp] theorem report_keys (c : Cause) (w : Word) : (s.report c w).keys = s.keys := rfl
@[simp] theorem report_renderNeeded (c : Cause) (w : Word) : (s.report c w).renderNeeded = s.renderNeeded := rfl
@[simp] theorem report_soundNeeded (c : Cause) (w : Word) : (s.report c w).soundNeeded = s.soundNeeded := rfl
@[simp] theorem report_out (c : Cause) (w : Word) : (s.report c w).out = { s.out with diag := some { cause := c, word := w, pc := s.pc } } := rfl
@[simp] theorem report_firstDiag (c : Cause) (w : Word) : (s.report c w).firstDiag = s.firstDiag.or (some { cause := c, word := w, pc := s.pc }) := rfl
@[simp] theorem report_stepNo (c : Cause) (w : Word) : (s.report c w).stepNo = s.stepNo := rfl

/-! The squash: only `pc` and the records change. -/

@[simp] theorem squash_mem (c : Cause) (w : Word) : (s.squash c w).mem = s.mem := rfl
@[simp] theorem squash_v (c : Cause) (w : Word) : (s.squash c w).v = s.v := rfl
@[simp] theorem squash_i (c : Cause) (w : Word) : (s.squash c w).i = s.i := rfl
@[simp] theorem squash_pc (c : Cause) (w : Word) : (s.squash c w).pc = s.pc + 2 := rfl
@[simp] theorem squash_stack (c : Cause) (w : Word) : (s.squash c w).stack = s.stack := rfl
@[simp] theorem squash_sp (c : Cause) (w : Word) : (s.squash c w).sp = s.sp := rfl
@[simp] theorem squash_dt (c : Cause) (w : Word) : (s.squash c w).dt = s.dt := rfl
@[simp] theorem squash_st (c : Cause) (w : Word) : (s.squash c w).st = s.st := rfl
@[simp] theorem squash_fb (c : Cause) (w : Word) : (s.squash c w).fb = s.fb := rfl
@[simp] theorem squash_keys (c : Cause) (w : Word) : (s.squash c w).keys = s.keys := rfl
@[simp] theorem squash_renderNeeded (c : Cause) (w : Word) : (s.squash c w).renderNeeded = s.renderNeeded := rfl
@[simp] theorem squash_soundNeeded (c : Cause) (w : Word) : (s.squash c w).soundNeeded = s.soundNeeded := rfl
@[simp] theorem squash_out (c : Cause) (w : Word) : (s.squash c w).out = { s.out with diag := some { cause := c, word := w, pc := s.pc } } := rfl
@[simp] theorem squash_firstDiag (c : Cause) (w : Word) : (s.squash c w).firstDiag = s.firstDiag.or (some { cause := c, word := w, pc := s.pc }) := rfl
@[simp] theorem squash_stepNo (c : Cause) (w : Word) : (s.squash c w).stepNo = s.stepNo := rfl

/-! The display: the framebuffer and render-needed change. -/

@[simp] theorem display_mem (fb : Framebuffer) : (s.display fb).mem = s.mem := rfl
@[simp] theorem display_v (fb : Framebuffer) : (s.display fb).v = s.v := rfl
@[simp] theorem display_i (fb : Framebuffer) : (s.display fb).i = s.i := rfl
@[simp] theorem display_pc (fb : Framebuffer) : (s.display fb).pc = s.pc := rfl
@[simp] theorem display_stack (fb : Framebuffer) : (s.display fb).stack = s.stack := rfl
@[simp] theorem display_sp (fb : Framebuffer) : (s.display fb).sp = s.sp := rfl
@[simp] theorem display_dt (fb : Framebuffer) : (s.display fb).dt = s.dt := rfl
@[simp] theorem display_st (fb : Framebuffer) : (s.display fb).st = s.st := rfl
@[simp] theorem display_fb (fb : Framebuffer) : (s.display fb).fb = fb := rfl
@[simp] theorem display_keys (fb : Framebuffer) : (s.display fb).keys = s.keys := rfl
@[simp] theorem display_renderNeeded (fb : Framebuffer) : (s.display fb).renderNeeded = true := rfl
@[simp] theorem display_soundNeeded (fb : Framebuffer) : (s.display fb).soundNeeded = s.soundNeeded := rfl
@[simp] theorem display_out (fb : Framebuffer) : (s.display fb).out = { s.out with renderEvent := true } := rfl
@[simp] theorem display_firstDiag (fb : Framebuffer) : (s.display fb).firstDiag = s.firstDiag := rfl
@[simp] theorem display_stepNo (fb : Framebuffer) : (s.display fb).stepNo = s.stepNo := rfl

/-! Before a step: only the outputs change. -/

@[simp] theorem clearOut_mem : (s.clearOut).mem = s.mem := rfl
@[simp] theorem clearOut_v : (s.clearOut).v = s.v := rfl
@[simp] theorem clearOut_i : (s.clearOut).i = s.i := rfl
@[simp] theorem clearOut_pc : (s.clearOut).pc = s.pc := rfl
@[simp] theorem clearOut_stack : (s.clearOut).stack = s.stack := rfl
@[simp] theorem clearOut_sp : (s.clearOut).sp = s.sp := rfl
@[simp] theorem clearOut_dt : (s.clearOut).dt = s.dt := rfl
@[simp] theorem clearOut_st : (s.clearOut).st = s.st := rfl
@[simp] theorem clearOut_fb : (s.clearOut).fb = s.fb := rfl
@[simp] theorem clearOut_keys : (s.clearOut).keys = s.keys := rfl
@[simp] theorem clearOut_renderNeeded : (s.clearOut).renderNeeded = s.renderNeeded := rfl
@[simp] theorem clearOut_soundNeeded : (s.clearOut).soundNeeded = s.soundNeeded := rfl
@[simp] theorem clearOut_out : (s.clearOut).out = StepOutput.quiet := rfl
@[simp] theorem clearOut_firstDiag : (s.clearOut).firstDiag = s.firstDiag := rfl
@[simp] theorem clearOut_stepNo : (s.clearOut).stepNo = s.stepNo := rfl

/-! Before the execute phase: only the outputs change. -/

@[simp] theorem beforeExec_mem : (beforeExec s).mem = s.mem := rfl
@[simp] theorem beforeExec_v : (beforeExec s).v = s.v := rfl
@[simp] theorem beforeExec_i : (beforeExec s).i = s.i := rfl
@[simp] theorem beforeExec_pc : (beforeExec s).pc = s.pc := rfl
@[simp] theorem beforeExec_stack : (beforeExec s).stack = s.stack := rfl
@[simp] theorem beforeExec_sp : (beforeExec s).sp = s.sp := rfl
@[simp] theorem beforeExec_dt : (beforeExec s).dt = s.dt := rfl
@[simp] theorem beforeExec_st : (beforeExec s).st = s.st := rfl
@[simp] theorem beforeExec_fb : (beforeExec s).fb = s.fb := rfl
@[simp] theorem beforeExec_keys : (beforeExec s).keys = s.keys := rfl
@[simp] theorem beforeExec_renderNeeded : (beforeExec s).renderNeeded = s.renderNeeded := rfl
@[simp] theorem beforeExec_soundNeeded : (beforeExec s).soundNeeded = s.soundNeeded := rfl
@[simp] theorem beforeExec_out : (beforeExec s).out = StepOutput.quiet := rfl
@[simp] theorem beforeExec_firstDiag : (beforeExec s).firstDiag = s.firstDiag := rfl
@[simp] theorem beforeExec_stepNo : (beforeExec s).stepNo = s.stepNo := rfl

/-! A failed fetch: only the records change. -/

@[simp] theorem fetchFailed_mem : (fetchFailed s).mem = s.mem := rfl
@[simp] theorem fetchFailed_v : (fetchFailed s).v = s.v := rfl
@[simp] theorem fetchFailed_i : (fetchFailed s).i = s.i := rfl
@[simp] theorem fetchFailed_pc : (fetchFailed s).pc = s.pc := rfl
@[simp] theorem fetchFailed_stack : (fetchFailed s).stack = s.stack := rfl
@[simp] theorem fetchFailed_sp : (fetchFailed s).sp = s.sp := rfl
@[simp] theorem fetchFailed_dt : (fetchFailed s).dt = s.dt := rfl
@[simp] theorem fetchFailed_st : (fetchFailed s).st = s.st := rfl
@[simp] theorem fetchFailed_fb : (fetchFailed s).fb = s.fb := rfl
@[simp] theorem fetchFailed_keys : (fetchFailed s).keys = s.keys := rfl
@[simp] theorem fetchFailed_renderNeeded : (fetchFailed s).renderNeeded = s.renderNeeded := rfl
@[simp] theorem fetchFailed_soundNeeded : (fetchFailed s).soundNeeded = s.soundNeeded := rfl
@[simp] theorem fetchFailed_out : (fetchFailed s).out = { StepOutput.quiet with diag := some { cause := .fetchBounds, word := 0x0000#16, pc := s.pc } } := rfl
@[simp] theorem fetchFailed_firstDiag : (fetchFailed s).firstDiag = s.firstDiag.or (some { cause := .fetchBounds, word := 0x0000#16, pc := s.pc }) := rfl
@[simp] theorem fetchFailed_stepNo : (fetchFailed s).stepNo = s.stepNo := rfl

/-! The tick: the timers and the sound signal change. -/

@[simp] theorem tick_mem : (tick s).mem = s.mem := rfl
@[simp] theorem tick_v : (tick s).v = s.v := rfl
@[simp] theorem tick_i : (tick s).i = s.i := rfl
@[simp] theorem tick_pc : (tick s).pc = s.pc := rfl
@[simp] theorem tick_stack : (tick s).stack = s.stack := rfl
@[simp] theorem tick_sp : (tick s).sp = s.sp := rfl
@[simp] theorem tick_dt : (tick s).dt = countDown s.dt := rfl
@[simp] theorem tick_st : (tick s).st = countDown s.st := rfl
@[simp] theorem tick_fb : (tick s).fb = s.fb := rfl
@[simp] theorem tick_keys : (tick s).keys = s.keys := rfl
@[simp] theorem tick_renderNeeded : (tick s).renderNeeded = s.renderNeeded := rfl
@[simp] theorem tick_soundNeeded : (tick s).soundNeeded = (s.soundNeeded || s.st == 1) := rfl
@[simp] theorem tick_out : (tick s).out = { s.out with soundEvent := s.out.soundEvent || s.st == 1 } := rfl
@[simp] theorem tick_firstDiag : (tick s).firstDiag = s.firstDiag := rfl
@[simp] theorem tick_stepNo : (tick s).stepNo = s.stepNo := rfl

/-! After the execute phase: the tick, and the step number. -/

@[simp] theorem afterExec_mem : (afterExec s).mem = s.mem := rfl
@[simp] theorem afterExec_v : (afterExec s).v = s.v := rfl
@[simp] theorem afterExec_i : (afterExec s).i = s.i := rfl
@[simp] theorem afterExec_pc : (afterExec s).pc = s.pc := rfl
@[simp] theorem afterExec_stack : (afterExec s).stack = s.stack := rfl
@[simp] theorem afterExec_sp : (afterExec s).sp = s.sp := rfl
@[simp] theorem afterExec_dt : (afterExec s).dt = countDown s.dt := rfl
@[simp] theorem afterExec_st : (afterExec s).st = countDown s.st := rfl
@[simp] theorem afterExec_fb : (afterExec s).fb = s.fb := rfl
@[simp] theorem afterExec_keys : (afterExec s).keys = s.keys := rfl
@[simp] theorem afterExec_renderNeeded : (afterExec s).renderNeeded = s.renderNeeded := rfl
@[simp] theorem afterExec_soundNeeded : (afterExec s).soundNeeded = (s.soundNeeded || s.st == 1) := rfl
@[simp] theorem afterExec_out : (afterExec s).out = { s.out with soundEvent := s.out.soundEvent || s.st == 1 } := rfl
@[simp] theorem afterExec_firstDiag : (afterExec s).firstDiag = s.firstDiag := rfl
@[simp] theorem afterExec_stepNo : (afterExec s).stepNo = s.stepNo + 1 := rfl

end Sys2Proof.Machine
end

