-- ==== Sys2Proof/Laws/Step.lean ====
section
/-! SUPPORT. What a step can do, said once: the fetch, the inversion of a step, and the word that the host places. -/

namespace Sys2Proof.Machine

/-- The fetch fails exactly when `PC > 0xFFE` (60_exceptions.md R155). -/
theorem fetch_eq_none (s : State) : fetch s = none ↔ 0xFFE < s.pc.toNat := by
  have h0 := read_eq_none s.mem s.pc.toNat
  have h1 := read_eq_none s.mem (s.pc.toNat + 1)
  unfold fetch
  simp only [Config.memSize] at h0 h1
  cases e0 : s.mem.read s.pc.toNat <;> cases e1 : s.mem.read (s.pc.toNat + 1) <;> simp_all <;> omega

/-- The fetched word is the big-endian word of the two bytes at `PC` (20_memory.md R44). -/
theorem fetch_eq_some (s : State) (w : Word) :
    fetch s = some w ↔ ∃ hi lo, s.mem.read s.pc.toNat = some hi ∧ s.mem.read (s.pc.toNat + 1) = some lo ∧ w = wordOfBytes hi lo := by
  unfold fetch
  cases e0 : s.mem.read s.pc.toNat <;> cases e1 : s.mem.read (s.pc.toNat + 1) <;> simp [eq_comm]

/-- Everything a step that answers a next state can do: fail its fetch, squash an unknown word and tick, or run a decoded instruction and tick. -/
theorem step_next {s t : State} (h : step s = .next t) :
    (0xFFE < s.pc.toNat ∧ t = fetchFailed s) ∨
    (∃ w, fetch s = some w ∧ decodeWord w = none ∧ t = afterExec ((beforeExec s).squash .unknownInstruction w)) ∨
    (∃ w i u, fetch s = some w ∧ decodeWord w = some i ∧ exec i (beforeExec s) = .next u ∧ t = afterExec u) := by
  unfold step at h
  split at h
  · rename_i hf
    exact .inl ⟨(fetch_eq_none s).1 hf, by cases h; rfl⟩
  · rename_i w hf
    refine .inr ?_
    unfold executeWord at h
    cases hd : decodeWord w with
    | none => rw [hd] at h; exact .inl ⟨w, hf, hd, by cases h; rfl⟩
    | some i =>
      rw [hd] at h
      dsimp only at h
      split at h <;> try (cases h)
      rename_i u hu
      exact .inr ⟨w, i, u, hf, hd, hu, rfl⟩

/-- The next step fetches exactly the word that `withFetchWord` places, whatever `PC` was. -/
theorem fetch_withFetchWord (s : State) (nbits w : Nat) (hw : s.mem.wf = true) :
    fetch (s.withFetchWord nbits w) = some (BitVec.ofNat 16 (w % 2 ^ nbits)) := by
  have placed : ∀ (t : State) (u : Word), t.mem.wf = true → ∀ m, t.mem.writeBlock t.pc.toNat (bytesOfWord u) = some m →
      fetch { t with mem := m } = some u := by
    intro t u ht m hm
    obtain ⟨-, -, hr⟩ := writeBlock_spec ht hm
    refine (fetch_eq_some _ _).2 ⟨hiByte u, loByte u, ?_, ?_, (wordOfBytes_hi_lo u).symm⟩
    · rw [hr, if_pos (by simp [bytesOfWord])]; simp [bytesOfWord]
    · rw [hr, if_pos (by simp [bytesOfWord])]; simp [bytesOfWord]
  simp only [State.withFetchWord]
  split
  · rename_i m hm
    exact placed s _ hw m hm
  · rcases h : s.mem.writeBlock Config.progBase (bytesOfWord (BitVec.ofNat 16 (w % 2 ^ nbits))) with _ | m
    · rw [writeBlock_eq_none] at h; simp [bytesOfWord, Config.memSize, Config.progBase] at h
    · exact placed { s with pc := Config.resetPc } _ hw m h

end Sys2Proof.Machine
end

