-- ==== Sys2Proof/Machine/Listing.lean ====
section
/-! DEFINITION. The syntax of an instruction as the spec's listings write it (30_encoding.md R69, the "syntax" column of R65). -/

namespace Sys2Proof.Machine

/-- A hexadecimal digit. -/
def hexDigit (k : Nat) : Char := ['0', '1', '2', '3', '4', '5', '6', '7', '8', '9', 'A', 'B', 'C', 'D', 'E', 'F'].getD k '?'

/-- `V0` to `VF`. -/
def regText (x : Reg) : String := String.ofList ['V', hexDigit x.val]

/-- `kk` as a hexadecimal numeral. -/
def byteText (kk : Byte) : String := String.ofList ['0', 'x', hexDigit (kk.toNat / 16), hexDigit (kk.toNat % 16)]

/-- `nnn` as a hexadecimal numeral. -/
def addrText (nnn : Addr12) : String :=
  String.ofList ['0', 'x', hexDigit (nnn.toNat / 256), hexDigit (nnn.toNat / 16 % 16), hexDigit (nnn.toNat % 16)]

/-- `n` as a numeral. -/
def rowsText (n : Rows) : String := String.ofList ['0', 'x', hexDigit n.val]

/-- An instruction's syntax (R69): the mnemonic and its operands. The unused field of `SHR` and `SHL` is not written (R67). -/
def instrText : Instr → String
  | .cls => "CLS"
  | .ret => "RET"
  | .jp nnn => "JP " ++ addrText nnn
  | .call nnn => "CALL " ++ addrText nnn
  | .seImm x kk => "SE " ++ regText x ++ "," ++ byteText kk
  | .sneImm x kk => "SNE " ++ regText x ++ "," ++ byteText kk
  | .seReg x y => "SE " ++ regText x ++ "," ++ regText y
  | .ldImm x kk => "LD " ++ regText x ++ "," ++ byteText kk
  | .addImm x kk => "ADD " ++ regText x ++ "," ++ byteText kk
  | .ldReg x y => "LD " ++ regText x ++ "," ++ regText y
  | .or x y => "OR " ++ regText x ++ "," ++ regText y
  | .and x y => "AND " ++ regText x ++ "," ++ regText y
  | .xor x y => "XOR " ++ regText x ++ "," ++ regText y
  | .addReg x y => "ADD " ++ regText x ++ "," ++ regText y
  | .sub x y => "SUB " ++ regText x ++ "," ++ regText y
  | .shr x _ => "SHR " ++ regText x
  | .subn x y => "SUBN " ++ regText x ++ "," ++ regText y
  | .shl x _ => "SHL " ++ regText x
  | .sneReg x y => "SNE " ++ regText x ++ "," ++ regText y
  | .ldI nnn => "LD I," ++ addrText nnn
  | .jpV0 nnn => "JP V0," ++ addrText nnn
  | .rnd x kk => "RND " ++ regText x ++ "," ++ byteText kk
  | .drw x y n => "DRW " ++ regText x ++ "," ++ regText y ++ "," ++ rowsText n
  | .skp x => "SKP " ++ regText x
  | .sknp x => "SKNP " ++ regText x
  | .ldVxDT x => "LD " ++ regText x ++ ",DT"
  | .ldVxK x => "LD " ++ regText x ++ ",K"
  | .ldDTVx x => "LD DT," ++ regText x
  | .ldSTVx x => "LD ST," ++ regText x
  | .addI x => "ADD I," ++ regText x
  | .ldF x => "LD F," ++ regText x
  | .ldB x => "LD B," ++ regText x
  | .storeRegs x => "LD [I]," ++ regText x
  | .loadRegs x => "LD " ++ regText x ++ ",[I]"

/-- A word in a listing: the instruction's syntax, or the directive that places a raw word (R69). -/
def wordText (w : Word) : String :=
  match decodeWord w with
  | some i => instrText i
  | none => "DW " ++ String.ofList ['0', 'x', hexDigit (w.toNat / 4096), hexDigit (w.toNat / 256 % 16), hexDigit (w.toNat / 16 % 16), hexDigit (w.toNat % 16)]

end Sys2Proof.Machine
end

