-- ==== Sys2Proof/Tests/Slice0.lean ====
section
/-! SUPPORT. The model's own tests: the checks of well-formedness, the decoding of every constructor, one step on small states, and a witness for the
hypotheses of every statement that has some. Expected values are the rules' own examples and the vectors of 95_test_vectors.md, whose names (vA15, vD7, …)
stand beside them. -/

namespace Sys2Proof.Tests

open Sys2Proof Sys2Proof.Machine

/-! ## Well-formedness: each check refuses an ill-formed term -/

theorem test_operand_16_is_no_register : operandFits 4 16 = false := by decide
theorem test_operand_256_is_no_byte : operandFits 8 256 = false := by decide
theorem test_operand_4096_is_no_address : operandFits 12 4096 = false := by decide
theorem test_operand_limits_fit : (operandFits 4 15 && operandFits 8 255 && operandFits 12 4095) = true := by decide
theorem test_row_with_bit_outside_mask : OpRow.wellFormed ⟨"X", 0xF000, 0x1001⟩ = false := by decide
theorem test_map_with_bad_row : tableWellFormed [⟨"X", 0xF000, 0x1001⟩] = false := by decide
theorem test_map_with_overlap : tableWellFormed [⟨"X", 0xF000, 0x8000⟩, ⟨"Y", 0xF00F, 0x8001⟩] = false := by decide
theorem test_opcode_map_wellFormed : tableWellFormed opTable = true := by decide
theorem test_opcode_map_has_34_rows : opTable.length = 34 := by decide
theorem test_image_too_long : imageWellFormed (List.replicate 3585 0x00#8) = false := by
  rw [imageWellFormed, List.length_replicate]; decide
theorem test_image_longest : imageWellFormed (List.replicate 3584 0x00#8) = true := by
  rw [imageWellFormed, List.length_replicate]; decide

/-! ## Decoding: every constructor, its word written bit by bit from the formats of R62 and the rows of R65 -/

theorem test_decode_fixed :
    decodeTableWord 16 0b0000_0000_1110_0000 = some .cls ∧ decodeTableWord 16 0b0000_0000_1110_1110 = some .ret := by decide

theorem test_decode_address :
    decodeTableWord 16 0b0001_1010_1011_1100 = some (.jp 0xABC) ∧ decodeTableWord 16 0b0010_0011_0000_0000 = some (.call 0x300) ∧
    decodeTableWord 16 0b1010_0010_1111_0000 = some (.ldI 0x2F0) ∧ decodeTableWord 16 0b1011_0001_1111_1111 = some (.jpV0 0x1FF) := by
  decide

theorem test_decode_immediate :
    decodeTableWord 16 0b0011_1010_0000_0101 = some (.seImm 0xA 0x05) ∧ decodeTableWord 16 0b0100_1010_0000_0101 = some (.sneImm 0xA 0x05) ∧
    decodeTableWord 16 0b0110_1010_0000_0101 = some (.ldImm 0xA 0x05) ∧ decodeTableWord 16 0b0111_1111_1000_0001 = some (.addImm 0xF 0x81) ∧
    decodeTableWord 16 0b1100_0001_0000_1111 = some (.rnd 1 0x0F) := by decide

theorem test_decode_two_registers :
    decodeTableWord 16 0b0101_0001_0010_0000 = some (.seReg 1 2) ∧ decodeTableWord 16 0b1001_0001_0010_0000 = some (.sneReg 1 2) ∧
    decodeTableWord 16 0b1000_0001_0010_0000 = some (.ldReg 1 2) ∧ decodeTableWord 16 0b1000_0001_0010_0001 = some (.or 1 2) ∧
    decodeTableWord 16 0b1000_0001_0010_0010 = some (.and 1 2) ∧ decodeTableWord 16 0b1000_0001_0010_0011 = some (.xor 1 2) ∧
    decodeTableWord 16 0b1000_0001_0010_0100 = some (.addReg 1 2) ∧ decodeTableWord 16 0b1000_0001_0010_0101 = some (.sub 1 2) ∧
    decodeTableWord 16 0b1000_0001_0010_0110 = some (.shr 1 2) ∧ decodeTableWord 16 0b1000_0001_0010_0111 = some (.subn 1 2) ∧
    decodeTableWord 16 0b1000_0001_0010_1110 = some (.shl 1 2) := by decide

theorem test_decode_draw : decodeTableWord 16 0b1101_1010_1011_0101 = some (.drw 0xA 0xB 5) := by decide

theorem test_decode_keys_and_timers :
    decodeTableWord 16 0b1110_0001_1001_1110 = some (.skp 1) ∧ decodeTableWord 16 0b1110_0001_1010_0001 = some (.sknp 1) ∧
    decodeTableWord 16 0b1111_0001_0000_0111 = some (.ldVxDT 1) ∧ decodeTableWord 16 0b1111_0010_0000_1010 = some (.ldVxK 2) ∧
    decodeTableWord 16 0b1111_0011_0001_0101 = some (.ldDTVx 3) ∧ decodeTableWord 16 0b1111_0100_0001_1000 = some (.ldSTVx 4) := by decide

theorem test_decode_index_and_memory :
    decodeTableWord 16 0b1111_0001_0001_1110 = some (.addI 1) ∧ decodeTableWord 16 0b1111_0010_0010_1001 = some (.ldF 2) ∧
    decodeTableWord 16 0b1111_0011_0011_0011 = some (.ldB 3) ∧ decodeTableWord 16 0b1111_1111_0101_0101 = some (.storeRegs 0xF) ∧
    decodeTableWord 16 0b1111_0010_0110_0101 = some (.loadRegs 2) := by decide

/-- vU1 to vU12, vS8, vS12. -/
theorem test_decode_unknown :
    [0x8128, 0x0000, 0x0123, 0xE19F, 0xF100, 0x00E1, 0x812F, 0x5AB1, 0x9AB8, 0xFF66, 0xE09F, 0x00FE, 0x5121, 0x912F].all
      (fun w => (decodeTableWord 16 w).isNone) = true := by decide

theorem test_decode_truncated : decodeBytes [0x6A#8] = .error .truncated := rfl

/-- Lines of the listings P1, P2 and P8. -/
theorem test_listing : wordText 0x6005 = "LD V0,0x05" ∧ wordText 0xF265 = "LD V2,[I]" ∧ wordText 0x1204 = "JP 0x204" ∧
    wordText 0x0000 = "DW 0x0000" := by decide

/-! ## One step -/

/-- The start state of the vectors: reset, with the word at 0x200. -/
def start (w : Nat) : State := State.reset.withFetchWord 16 w

/-- One step answers a next state that passes the check. -/
def after (s : State) (check : State → Bool) : Bool :=
  match step s with
  | .next t => check t
  | .fault _ => false
  | .refused _ => false

/-- The outputs of a squashed step at 0x200. -/
def squashedAt200 (c : Cause) (w : Word) (t : State) : Bool :=
  t.pc == 0x202 && t.out.diag == some { cause := c, word := w, pc := 0x200 }

/-- `V[i] = 0xA0 + i` for every register (vM25, vM26). -/
def fullRegs (s : State) : State := { s with v := Vector.ofFn fun k => 0xA0#8 + BitVec.ofNat 8 k.val }

/-- The start state with `I` and the bytes from `I` up. -/
def startI (w : Nat) (i : Word) (bytes : List Byte) : State :=
  let s := start w
  { s with i := i, mem := (s.mem.writeBlock i.toNat bytes).getD s.mem }

-- vA1 (X2), vA2
theorem test_ldImm : after (start 0x6A05) (fun t => t.getV 0xA == 0x05 && t.pc == 0x202) = true := by decide
theorem test_ldImm_vF : after (start 0x6FFF) (fun t => t.getV vF == 0xFF) = true := by decide
-- vA4, vA5
theorem test_addImm_wraps :
    after (((start 0x7001).setV 0 0xFF).setV vF 1) (fun t => t.getV 0 == 0 && t.getV vF == 1) = true := by decide
theorem test_addImm_vF : after ((start 0x7FFF).setV vF 1) (fun t => t.getV vF == 0) = true := by decide
-- vA7
theorem test_ldReg : after ((start 0x8120).setV 2 0x3C) (fun t => t.getV 1 == 0x3C && t.getV 2 == 0x3C) = true := by decide
-- vA8, vA9, vA10
theorem test_or :
    after ((((start 0x8121).setV 1 0xF0).setV 2 0x0F).setV vF 7) (fun t => t.getV 1 == 0xFF && t.getV vF == 7) = true := by decide
theorem test_and : after (((start 0x8122).setV 1 0xF0).setV 2 0x3C) (fun t => t.getV 1 == 0x30) = true := by decide
theorem test_xor : after (((start 0x8123).setV 1 0xF0).setV 2 0x3C) (fun t => t.getV 1 == 0xCC) = true := by decide
-- vA15, vA17
theorem test_addReg_carry :
    after (((start 0x8124).setV 1 0x80).setV 2 0x80) (fun t => t.getV 1 == 0 && t.getV vF == 1) = true := by decide
theorem test_addReg_into_vF : after (((start 0x8F14).setV vF 0xFF).setV 1 1) (fun t => t.getV vF == 1) = true := by decide
-- vA22, vA27
theorem test_sub_borrow :
    after ((((start 0x8125).setV 1 5).setV 2 7).setV vF 1) (fun t => t.getV 1 == 0xFE && t.getV vF == 0) = true := by decide
theorem test_sub_into_vF : after (((start 0x8F15).setV vF 3).setV 1 5) (fun t => t.getV vF == 0) = true := by decide
-- vA31, vA33
theorem test_subn_borrow : after (((start 0x8127).setV 1 7).setV 2 5) (fun t => t.getV 1 == 0xFE && t.getV vF == 0) = true := by decide
theorem test_subn_into_vF : after (((start 0x8F17).setV vF 5).setV 1 3) (fun t => t.getV vF == 0) = true := by decide
-- vA37, vA39
theorem test_shr_ignores_y :
    after (((start 0x8126).setV 1 0xFF).setV 2 0) (fun t => t.getV 1 == 0x7F && t.getV 2 == 0 && t.getV vF == 1) = true := by decide
theorem test_shr_into_vF : after ((start 0x8F06).setV vF 2) (fun t => t.getV vF == 0) = true := by decide
-- vA43, vA44
theorem test_shl_ignores_y :
    after (((start 0x812E).setV 1 0xFF).setV 2 0) (fun t => t.getV 1 == 0xFE && t.getV 2 == 0 && t.getV vF == 1) = true := by decide
theorem test_shl_into_vF : after ((start 0x8F0E).setV vF 0x80) (fun t => t.getV vF == 1) = true := by decide
-- vA48: whatever the draw
theorem test_rnd_mask_zero : ∃ t, step ((start 0xC100).setV 1 9) = .next t ∧ t.getV 1 = 0 := ⟨_, rfl, BitVec.and_zero⟩

-- vJ1, vC2, vC3
theorem test_jp : after (start 0x1ABC) (fun t => t.pc == 0xABC) = true := by decide
theorem test_call_last_entry :
    after { start 0x2ABC with sp := 0x0E } (fun t => t.sp == 0x0F && t.stack[15] == 0x200 && t.pc == 0xABC) = true := by decide
theorem test_call_full :
    after { start 0x2ABC with sp := 0x0F } (fun t => t.sp == 0x0F && squashedAt200 .stackOverflow 0x2ABC t) = true := by decide
-- vR2, vR1
theorem test_ret_last_entry :
    after { start 0x00EE with sp := 0x00, stack := State.reset.stack.set 0 0x0FFE } (fun t => t.pc == 0x1000 && t.sp == 0xFF) = true := by
  decide
theorem test_ret_empty : after (start 0x00EE) (fun t => t.sp == 0xFF && squashedAt200 .stackUnderflow 0x00EE t) = true := by decide
-- vS1, vS2, vS3, vS4, vS5, vS6, vS9, vS11
theorem test_seImm_taken : after ((start 0x3A05).setV 0xA 5) (fun t => t.pc == 0x204) = true := by decide
theorem test_seImm_not_taken : after ((start 0x3A05).setV 0xA 6) (fun t => t.pc == 0x202) = true := by decide
theorem test_sneImm_not_taken : after ((start 0x4A05).setV 0xA 5) (fun t => t.pc == 0x202) = true := by decide
theorem test_sneImm_taken : after ((start 0x4A05).setV 0xA 6) (fun t => t.pc == 0x204) = true := by decide
theorem test_seReg_taken : after (((start 0x5120).setV 1 0x7F).setV 2 0x7F) (fun t => t.pc == 0x204) = true := by decide
theorem test_seReg_not_taken : after (((start 0x5120).setV 1 1).setV 2 2) (fun t => t.pc == 0x202) = true := by decide
theorem test_sneReg_taken : after (((start 0x9120).setV 1 1).setV 2 2) (fun t => t.pc == 0x204) = true := by decide
theorem test_sneReg_same_register : after ((start 0x9330).setV 3 9) (fun t => t.pc == 0x202) = true := by decide
-- vB2, vB4
theorem test_jpV0_not_masked : after ((start 0xBFFF).setV 0 0xFF) (fun t => t.pc == 0x10FE) = true := by decide
theorem test_jpV0_uses_V0 : after (((start 0xB1FF).setV 0 1).setV 1 0x77) (fun t => t.pc == 0x200) = true := by decide

-- vD1
theorem test_cls :
    after { (start 0x00E0).setV vF 1 with fb := State.reset.fb.set 31 (BitVec.twoPow 64 63) }
      (fun t => t.fb == State.reset.fb && t.getV vF == 1 && t.renderNeeded && t.out.renderEvent) = true := by decide
-- vD7: cells 255 and 262; vD9
theorem test_drw_not_clipped :
    after ((startI 0xD011 0x300 [0x81]).setV 0 0xFF)
      (fun t => t.fb[3] == BitVec.twoPow 64 63 && t.fb[4] == BitVec.twoPow 64 6 && t.getV vF == 0 && t.renderNeeded) = true := by decide
theorem test_drw_collision :
    after { startI 0xD011 0x300 [0xC0] with fb := State.reset.fb.set 0 (BitVec.twoPow 64 1) }
      (fun t => t.fb[0] == BitVec.twoPow 64 0 && t.getV vF == 1 && t.out.renderEvent) = true := by decide

-- vK1, vK5, vK3, vK6
theorem test_skp_taken : after { (start 0xE19E).setV 1 7 with keys := 0x0080 } (fun t => t.pc == 0x204) = true := by decide
theorem test_skp_index_not_masked :
    after { (start 0xE19E).setV 1 0x10 with keys := 0x0001 } (squashedAt200 .keyIndexBounds 0xE19E) = true := by decide
theorem test_sknp_taken : after ((start 0xE1A1).setV 1 7) (fun t => t.pc == 0x204) = true := by decide
theorem test_sknp_index_out_of_range : after ((start 0xE1A1).setV 1 0xFF) (squashedAt200 .keyIndexBounds 0xE1A1) = true := by decide
-- vK9, vK13
theorem test_ldVxK_pressed : after { start 0xF20A with keys := 0x0080 } (fun t => t.getV 2 == 7 && t.pc == 0x202) = true := by decide
theorem test_ldVxK_waits :
    after { (start 0xF20A).setV 2 0x55 with dt := 2, st := 1 }
      (fun t => t.pc == 0x200 && t.getV 2 == 0x55 && t.dt == 1 && t.st == 0 && t.soundNeeded && t.out.soundEvent) = true := by decide
-- vT1, vT4, vT8, vT10
theorem test_ldVxDT_before_the_tick : after { start 0xF107 with dt := 0x2A } (fun t => t.getV 1 == 0x2A && t.dt == 0x29) = true := by decide
theorem test_ldDTVx_then_tick : after ((start 0xF015).setV 0 3) (fun t => t.dt == 2) = true := by decide
theorem test_ldSTVx_one_sounds : after ((start 0xF018).setV 0 1) (fun t => t.st == 0 && t.soundNeeded && t.out.soundEvent) = true := by
  decide
theorem test_ldSTVx_zero_is_silent : after { start 0xF018 with st := 5 } (fun t => t.st == 0 && !t.soundNeeded) = true := by decide

-- vM1, vM3
theorem test_ldI_clears_high : after { start 0xA000 with i := 0x1234 } (fun t => t.i == 0) = true := by decide
theorem test_ldI : after (start 0xAFFF) (fun t => t.i == 0x0FFF) = true := by decide
-- vM8, vM9
theorem test_addI_wraps :
    after { (start 0xF11E).setV 1 1 with i := 0xFFFF } (fun t => t.i == 0 && t.getV vF == 1) = true := by decide
theorem test_addI_reads_old_vF :
    after { (start 0xFF1E).setV vF 1 with i := 0x0FFF } (fun t => t.i == 0x1000 && t.getV vF == 1) = true := by decide
-- vM13
theorem test_ldF_not_masked : after ((start 0xF029).setV 0 0xFF) (fun t => t.i == 0x04FB) = true := by decide
-- vM16, vM21
theorem test_ldB :
    after ((startI 0xF033 0x300 []).setV 0 254) (fun t => t.mem.readBlock 0x300 3 == some [2, 5, 4] && t.i == 0x300) = true := by decide
theorem test_ldB_out_of_memory :
    after ((startI 0xF033 0xFFE []).setV 0 255)
      (fun t => t.mem.readBlock 0xFFE 2 == some [0, 0] && squashedAt200 .memBounds 0xF033 t) = true := by decide
-- vM25, vM26
theorem test_storeRegs_to_the_end :
    after (fullRegs (startI 0xFF55 0xFF0 []))
      (fun t => t.mem.read 0xFF0 == some 0xA0 && t.mem.read 0xFFF == some 0xAF && t.i == 0xFF0) = true := by decide
theorem test_storeRegs_out_of_memory :
    after (fullRegs (startI 0xFF55 0xFF1 []))
      (fun t => t.mem.read 0xFF1 == some 0 && t.mem.read 0xFFF == some 0 && squashedAt200 .memBounds 0xFF55 t) = true := by decide
-- vM27, vM30
theorem test_loadRegs :
    after ((startI 0xF265 0x300 [2, 5, 4, 9]).setV 3 0x77)
      (fun t => t.getV 0 == 2 && t.getV 1 == 5 && t.getV 2 == 4 && t.getV 3 == 0x77 && t.i == 0x300) = true := by decide
theorem test_loadRegs_out_of_memory :
    after (((startI 0xF165 0xFFF []).setV 0 1).setV 1 2)
      (fun t => t.getV 0 == 1 && t.getV 1 == 2 && squashedAt200 .memBounds 0xF165 t) = true := by decide

-- vT14, vT15, vF4
theorem test_unknown_word_ticks :
    after { start 0x0000 with st := 1, dt := 5 }
      (fun t => t.dt == 4 && t.st == 0 && t.soundNeeded && t.out.soundEvent && squashedAt200 .unknownInstruction 0x0000 t) = true := by
  decide
theorem test_fetch_bounds_does_not_tick :
    after { State.reset with pc := 0x1000, st := 1, dt := 5 }
      (fun t => t.pc == 0x1000 && t.dt == 5 && t.st == 1 && !t.soundNeeded &&
        t.out.diag == some { cause := .fetchBounds, word := 0x0000, pc := 0x1000 }) = true := by decide
theorem test_odd_pc :
    after ({ State.reset with pc := 0x201 }.withFetchWord 16 0x6A05) (fun t => t.getV 0xA == 5 && t.pc == 0x203) = true := by decide

/-- Writing the byte that reset left at an address takes its entry out again: equal memories are equal data. -/
theorem test_memory_canonical :
    ((State.reset.mem.write 0x300 7).bind (·.write 0x300 0)) = some State.reset.mem ∧
    ((State.reset.mem.write 0 0).bind (·.write 0 0xF0)) = some State.reset.mem ∧
    (State.reset.mem.write 0x1000 7) = none := by decide

/-! ## Witnesses: for every statement with hypotheses, and for each of its clauses at the ends of its range, a state and operands that meet them -/

-- CallPushesItsAddress: 15 entries in use, none in use; 16 in use
theorem witness_call_pushes : (∃ s : State, s.spLegal ∧ s.sp = 0x0E#8 ∧ s.sp ≠ 0x0F#8) ∧ (∃ s : State, s.spLegal ∧ s.sp = 0xFF#8 ∧ s.sp ≠ 0x0F#8) :=
  ⟨⟨{ State.reset with sp := 0x0E }, .inr (by decide), rfl, by decide⟩, ⟨State.reset, .inl rfl, rfl, by decide⟩⟩
theorem witness_call_overflows : ∃ s : State, s.spLegal ∧ s.sp = 0x0F#8 := ⟨{ State.reset with sp := 0x0F }, .inr (by decide), rfl⟩

-- ReturnPopsAddress: one entry in use, 16 in use; none in use
theorem witness_ret_pops : (∃ s : State, s.spLegal ∧ s.sp = 0x00#8 ∧ s.sp ≠ 0xFF#8) ∧ (∃ s : State, s.spLegal ∧ s.sp = 0x0F#8 ∧ s.sp ≠ 0xFF#8) :=
  ⟨⟨{ State.reset with sp := 0x00 }, .inr (by decide), rfl, by decide⟩, ⟨{ State.reset with sp := 0x0F }, .inr (by decide), rfl, by decide⟩⟩
theorem witness_ret_underflows : ∃ s : State, s.spLegal ∧ s.sp = 0xFF#8 := ⟨State.reset, .inl rfl, rfl⟩

-- IllegalStackPointerStops: the values next to the legal set
theorem witness_illegal_sp : (∃ s : State, ¬ s.spLegal ∧ s.sp = 0x10#8) ∧ (∃ s : State, ¬ s.spLegal ∧ s.sp = 0xFE#8) :=
  ⟨⟨{ State.reset with sp := 0x10 }, fun h => h.elim (by decide) (by decide), rfl⟩,
   ⟨{ State.reset with sp := 0xFE }, fun h => h.elim (by decide) (by decide), rfl⟩⟩

-- CallThenReturnContinuesAfterCall
theorem witness_call_then_return : ∃ t u w, State.reset.spLegal ∧ State.reset.sp ≠ 0x0F#8 ∧ exec (.call 0x300) State.reset = .next t ∧
    u.sp = t.sp ∧ u.stack = t.stack ∧ u.pc = 0x304 ∧ exec .ret u = .next w :=
  ⟨_, { State.reset with sp := 0x00, stack := State.reset.stack.set 0 0x200, pc := 0x304 }, _, .inl rfl, by decide, rfl, rfl, rfl, rfl, rfl⟩

-- DrawSpriteByExclusiveOr: the last byte of memory; no rows from an `I` outside it; one row too many, one byte too far
theorem witness_drw_in_memory : ∃ (s : State) (n : Rows), n.val ≠ 0 ∧ s.i.toNat + n.val - 1 = 0xFFF ∧ (n.val = 0 ∨ s.i.toNat + n.val - 1 ≤ 0xFFF) :=
  ⟨{ State.reset with i := 0x0FFF }, 1, by decide, by decide, .inr (by decide)⟩
theorem witness_drw_no_rows : ∃ (s : State) (n : Rows), s.i = 0xFFFF ∧ (n.val = 0 ∨ s.i.toNat + n.val - 1 ≤ 0xFFF) :=
  ⟨{ State.reset with i := 0xFFFF }, 0, rfl, .inl rfl⟩
theorem witness_drw_out_of_memory : ∃ (s : State) (n : Rows), n.val > 0 ∧ s.i.toNat + n.val - 1 = 0x1000 ∧ s.i.toNat + n.val - 1 > 0xFFF :=
  ⟨{ State.reset with i := 0x0FFF }, 2, by decide, by decide, by decide⟩

-- DrawTwiceRestoresFramebuffer (X6 e), DrawWithNothingVisible (vD11, vD8)
theorem witness_draw_twice : ∃ t u, (0 : Reg) ≠ vF ∧ (State.reset.i.toNat + (5 : Rows).val - 1 ≤ 0xFFF) ∧
    exec (.drw 0 0 5) State.reset = .next t ∧ exec (.drw 0 0 5) t = .next u := ⟨_, _, by decide, by decide, rfl, rfl⟩
theorem witness_draw_nothing : (∃ t, exec (.drw 0 1 0) { State.reset with i := 0xFFFF } = .next t) ∧
    (∃ s t, (State.getV s 1).toNat = 32 ∧ s.i.toNat + (1 : Rows).val - 1 ≤ 0xFFF ∧ exec (.drw 0 1 1) s = .next t) :=
  ⟨⟨_, rfl⟩, ⟨State.reset.setV 1 32, _, by decide, by decide, rfl⟩⟩

-- KeySkips: the last key; one above it
theorem witness_key_in_range : ∃ s : State, (s.getV 1).toNat = 15 ∧ (s.getV 1).toNat ≤ 15 := ⟨State.reset.setV 1 0x0F, by decide, by decide⟩
theorem witness_key_out_of_range : ∃ s : State, (s.getV 1).toNat = 16 ∧ (s.getV 1).toNat > 15 := ⟨State.reset.setV 1 0x10, by decide, by decide⟩

-- KeyWaitReportsAPressedKey
theorem witness_key_wait : (∃ s : State, s.keys ≠ 0) ∧ (∃ s : State, s.keys = 0) :=
  ⟨⟨{ State.reset with keys := 0x8000 }, by decide⟩, ⟨State.reset, rfl⟩⟩

-- StoreDecimalDigits: the last base, and the one after it
theorem witness_bcd : (∃ s : State, s.mem.wf = true ∧ s.i.toNat + 2 = 0xFFF ∧ s.i.toNat + 2 ≤ 0xFFF) ∧
    (∃ s : State, s.mem.wf = true ∧ s.i.toNat + 2 = 0x1000 ∧ s.i.toNat + 2 > 0xFFF) :=
  ⟨⟨{ State.reset with i := 0x0FFD }, rfl, by decide, by decide⟩, ⟨{ State.reset with i := 0x0FFE }, rfl, by decide, by decide⟩⟩

-- StoreRegisterBlock, LoadRegisterBlock: all registers at the last base, and at the one after it
theorem witness_block : (∃ (s : State) (x : Reg), s.mem.wf = true ∧ x = 15 ∧ s.i.toNat + x.val = 0xFFF ∧ s.i.toNat + x.val ≤ 0xFFF) ∧
    (∃ (s : State) (x : Reg), s.mem.wf = true ∧ x = 15 ∧ s.i.toNat + x.val = 0x1000 ∧ s.i.toNat + x.val > 0xFFF) :=
  ⟨⟨{ State.reset with i := 0x0FF0 }, 15, rfl, rfl, by decide, by decide⟩, ⟨{ State.reset with i := 0x0FF1 }, 15, rfl, rfl, by decide, by decide⟩⟩

-- BlockStoreThenLoadRestoresRegisters
theorem witness_block_round_trip : ∃ (s t u w : State), s.mem.wf = true ∧ s.i.toNat + (2 : Reg).val ≤ 0xFFF ∧
    exec (.storeRegs 2) s = .next t ∧ u.mem = t.mem ∧ u.i = s.i ∧ exec (.loadRegs 2) u = .next w ∧ (1 : Reg) ≤ 2 :=
  ⟨{ State.reset with i := 0x400 }, _, { State.reset with i := 0x400 }, _, rfl, by decide, rfl, rfl, rfl, rfl, by decide⟩

-- NextFetchSeesTheStore: both bytes of the next word stored, its high byte only, its low byte only, neither; the last word of memory
theorem witness_next_fetch_both : ∃ s t : State, s.mem.wf = true ∧ fetch s = some (encode (.storeRegs 1)) ∧ faultCause s (.storeRegs 1) = none ∧
    step s = .next t ∧ t.pc.toNat ≤ 0xFFE ∧ (storedByte s (.storeRegs 1) 0x202).isSome ∧ (storedByte s (.storeRegs 1) 0x203).isSome :=
  ⟨{ start 0xF155 with i := 0x202 }, _, by decide, by decide, by decide, rfl, by decide, by decide, by decide⟩
theorem witness_next_fetch_high : ∃ s t : State, s.mem.wf = true ∧ fetch s = some (encode (.storeRegs 0)) ∧ faultCause s (.storeRegs 0) = none ∧
    step s = .next t ∧ t.pc.toNat ≤ 0xFFE ∧ (storedByte s (.storeRegs 0) 0x202).isSome ∧ (storedByte s (.storeRegs 0) 0x203).isNone :=
  ⟨{ start 0xF055 with i := 0x202 }, _, by decide, by decide, by decide, rfl, by decide, by decide, by decide⟩
theorem witness_next_fetch_low : ∃ s t : State, s.mem.wf = true ∧ fetch s = some (encode (.ldB 1)) ∧ faultCause s (.ldB 1) = none ∧
    step s = .next t ∧ t.pc.toNat ≤ 0xFFE ∧ (storedByte s (.ldB 1) 0x202).isNone ∧ (storedByte s (.ldB 1) 0x203).isSome :=
  ⟨{ start 0xF133 with i := 0x203 }, _, by decide, by decide, by decide, rfl, by decide, by decide, by decide⟩
theorem witness_next_fetch_last_word : ∃ s t : State, s.mem.wf = true ∧ fetch s = some (encode (.ldB 1)) ∧ faultCause s (.ldB 1) = none ∧
    step s = .next t ∧ t.pc.toNat = 0xFFE ∧ (storedByte s (.ldB 1) 0xFFE).isSome ∧ (storedByte s (.ldB 1) 0x1000).isNone :=
  ⟨{ State.reset with pc := 0xFFC, i := 0xFFD }.withFetchWord 16 0xF133, _, by decide, by decide, by decide, rfl, by decide, by decide, by decide⟩
theorem witness_next_fetch_elsewhere : ∃ s t u : State, s.mem.wf = true ∧ fetch s = some (encode (.ldB 1)) ∧ faultCause s (.ldB 1) = none ∧
    step s = .next t ∧ u.mem = t.mem ∧ u.pc = 0x300 ∧ (storedByte s (.ldB 1) 0x300).isSome :=
  ⟨{ start 0xF133 with i := 0x300 }, _, { State.reset with pc := 0x300, mem := _ }, by decide, by decide, by decide, rfl, rfl, rfl, by decide⟩

/-- The instruction's own bytes stored over (vM33): the step completes, and the next fetch is not of them. -/
theorem test_store_over_itself :
    after (((startI 0xF155 0x200 []).setV 0 0x12).setV 1 0x34)
      (fun t => fetch { t with pc := 0x200 } == some 0x1234 && t.pc == 0x202 && t.out.diag == none) = true := by decide

-- DecodeOfEncodeIsIdentity, EncodeOfDecodeIsIdentity (with a don't-care field that is not zero)
theorem witness_encode : Instr.wellFormed (.drw 0xA 0xB 15) = true ∧ decodeWord 0x81E6#16 = some (.shr 1 0xE) := by decide

-- StepRunsTheDecodedInstruction, at the last word of memory
theorem witness_step_runs : ∃ s : State, s.pc = 0xFFE ∧ s.mem.read s.pc.toNat = some 0x6A ∧ s.mem.read (s.pc.toNat + 1) = some 0x05 ∧
    decodeBytes [0x6A, 0x05] = .ok (.ldImm 0xA 0x05, []) ∧ Instr.wellFormed (.ldImm 0xA 0x05) = true :=
  ⟨{ State.reset with pc := 0xFFE }.withFetchWord 16 0x6A05, by decide, by decide, by decide, rfl, rfl⟩

-- StepIsFetchDecodeExecuteTick, TimersTickInEveryFetchedStep, FetchBoundsStallsForGood: both sides of the limit; an unknown word and an instruction
theorem witness_fetch_limit : (∃ s : State, s.pc.toNat = 0xFFF ∧ s.pc.toNat > 0xFFE) ∧ (∃ s : State, s.pc.toNat = 0xFFE ∧ s.pc.toNat ≤ 0xFFE) :=
  ⟨⟨{ State.reset with pc := 0xFFF }, by decide, by decide⟩, ⟨{ State.reset with pc := 0xFFE }, by decide, by decide⟩⟩
theorem witness_step_phases : decodeWord (wordOfBytes 0x00 0x00) = none ∧
    ∃ u, decodeWord (wordOfBytes 0x12 0x34) = some (.jp 0x234) ∧ exec (.jp 0x234) { State.reset with out := StepOutput.quiet } = .next u :=
  ⟨rfl, _, rfl, rfl⟩

-- FaultingInstructionIsSquashed: one state for every cause of the execute phase
theorem witness_faults :
    (fetch (start 0x0000) = some 0x0000#16 ∧ decodeWord 0x0000#16 = none) ∧
    (fetch { start 0x2300 with sp := 0x0F } = some 0x2300#16 ∧ faultCause { start 0x2300 with sp := 0x0F } (.call 0x300) = some .stackOverflow) ∧
    (fetch (start 0x00EE) = some 0x00EE#16 ∧ faultCause (start 0x00EE) .ret = some .stackUnderflow) ∧
    (fetch { start 0xD012 with i := 0xFFF } = some 0xD012#16 ∧ faultCause { start 0xD012 with i := 0xFFF } (.drw 0 1 2) = some .memBounds) ∧
    (fetch ((start 0xE19E).setV 1 16) = some 0xE19E#16 ∧ faultCause ((start 0xE19E).setV 1 16) (.skp 1) = some .keyIndexBounds) := by decide

-- Statements about any step that answers a next state: DiagnosticIsThatOfTheTable, RenderEventIffDisplayInstruction, StepsNeverWriteKeysNorClearSignals,
-- SignalsAndRecordsAreNeverRead, StepKeepsInvariant, HostActionEffects (its last clause)
theorem reset_inv : State.reset.Inv := ⟨by decide, .inl rfl, by decide, by decide⟩
theorem witness_step : ∃ t, State.reset.Inv ∧ step State.reset = .next t := ⟨_, reset_inv, rfl⟩
theorem witness_step_signals : ∃ t, step { State.reset with renderNeeded := true, soundNeeded := true } = .next t := ⟨_, rfl⟩
theorem witness_step_render : (∃ t, fetch (start 0x00E0) = some (encode .cls) ∧ step (start 0x00E0) = .next t) ∧
    (∃ t, fetch (start 0xD005) = some (encode (.drw 0 0 5)) ∧ faultCause (start 0xD005) (.drw 0 0 5) = none ∧ step (start 0xD005) = .next t) :=
  ⟨⟨_, by decide, rfl⟩, ⟨_, by decide, by decide, rfl⟩⟩

-- TimersTickInEveryFetchedStep: neither timer written, each of them written
theorem witness_timers : (∃ t, step (start 0x1200) = .next t ∧ (start 0x1200).pc.toNat ≤ 0xFFE ∧ fetch (start 0x1200) = some 0x1200#16) ∧
    (∃ t, step (start 0xF015) = .next t ∧ (start 0xF015).pc.toNat ≤ 0xFFE ∧ fetch (start 0xF015) = some (encode (.ldDTVx 0))) ∧
    (∃ t, step (start 0xF018) = .next t ∧ (start 0xF018).pc.toNat ≤ 0xFFE ∧ fetch (start 0xF018) = some (encode (.ldSTVx 0))) :=
  ⟨⟨_, rfl, by decide, by decide⟩, ⟨_, rfl, by decide, by decide⟩, ⟨_, rfl, by decide, by decide⟩⟩

-- IdleStepsOnlyTickTimers: a key wait with no key, a jump to itself (vK8, vJ3)
theorem witness_idle : (fetch (start 0xF20A) = some (encode (.ldVxK 2)) ∧ (start 0xF20A).keys = 0) ∧
    (fetch (start 0x1200) = some (encode (.jp 0x200)) ∧ (0x200#12).toNat = (start 0x1200).pc.toNat) := by decide

-- FirstDiagnosticIsSticky, ModelRecordsSurviveHostActions: a record held over a step, a reset and a load with either reply; none held
theorem witness_sticky : ∃ s : State, s.firstDiag = some { cause := .memBounds, word := 0xF033, pc := 0x200 } ∧ (∃ t, step s = .next t) ∧
    (∃ t, act .reset s = .next (t, .nothing)) ∧ (∃ t, act (.load [0x6A, 0x05]) s = .next (t, .ok)) :=
  ⟨{ State.reset with firstDiag := some { cause := .memBounds, word := 0xF033, pc := 0x200 } }, rfl, ⟨_, rfl⟩, ⟨_, rfl⟩, ⟨_, rfl⟩⟩
theorem witness_no_record : ∃ s t : State, s.firstDiag = none ∧ step s = .next t := ⟨State.reset, _, rfl, rfl⟩
theorem load_refused (bytes : List Byte) (s : State) (h : imageWellFormed bytes = false) : act (.load bytes) s = .next (s, .loadError) := by
  simp [act, hostLoad, h]
theorem witness_load_error : act (.load (List.replicate 3585 0x00#8)) State.reset = .next (State.reset, .loadError) :=
  load_refused _ _ test_image_too_long

-- OnlyListedWritersChangeAnItem, RegistersChangeOnlyAsNamed: a destination, and the flag
theorem witness_changes : (∃ t, exec (.ldImm 1 5) State.reset = .next t ∧ ¬ Same State.reset t .v ∧ t.getV 1 ≠ State.reset.getV 1) ∧
    (∃ t, exec (.addI 1) { State.reset with i := 0x1000 } = .next t ∧ t.getV vF ≠ State.reset.getV vF) :=
  ⟨⟨_, rfl, fun h => absurd (h 1) (by decide), by decide⟩, ⟨_, rfl, by decide⟩⟩

-- KeysAreReadOnlyByKeyInstructions, RandomInputIsReadOnlyByRnd
theorem witness_inputs : ∃ t, (∀ x, Instr.cls ≠ .skp x ∧ Instr.cls ≠ .sknp x ∧ Instr.cls ≠ .ldVxK x) ∧ (∀ x kk, Instr.cls ≠ .rnd x kk) ∧
    exec .cls State.reset = .next t :=
  ⟨_, fun _ => ⟨nofun, nofun, nofun⟩, fun _ _ => nofun, rfl⟩

-- LoadPlacesImageOrFailsCleanly: the longest image, one byte more (vH1, vH2)
theorem witness_load : (∃ b : List Byte, b.length = 3584 ∧ b.length ≤ 3584) ∧ (∃ b : List Byte, b.length = 3585 ∧ 3584 < b.length) :=
  ⟨⟨List.replicate 3584 0, List.length_replicate .., by rw [List.length_replicate]⟩,
   ⟨List.replicate 3585 0, List.length_replicate .., by rw [List.length_replicate]; exact Nat.lt_succ_self _⟩⟩

-- FirstFetchIsAtTheEntryPoint, HostActionEffects (vH5, vH4)
theorem witness_first_fetch : (∃ t, act .reset State.reset = .next (t, .nothing)) ∧ ∃ t, act (.load [0x6A, 0x05]) { State.reset with sp := 0x02, st := 9, renderNeeded := true } = .next (t, .ok) :=
  ⟨⟨_, rfl⟩, _, rfl⟩

-- ModelRecordsSurviveHostActions, the record of the outputs: not quiet before, over a reset, a load, a load that fails, and the keys
theorem witness_outputs : ∃ s : State, s.out.renderEvent = true ∧ (∃ t, act .reset s = .next (t, .nothing)) ∧
    (∃ t, act (.load [0x6A, 0x05]) s = .next (t, .ok)) ∧ act (.load (List.replicate 3585 0x00#8)) s = .next (s, .loadError) ∧
    ∃ t, act (.setKeys 1) s = .next (t, .nothing) :=
  ⟨{ State.reset with out := { StepOutput.quiet with renderEvent := true } }, rfl, ⟨_, rfl⟩, ⟨_, rfl⟩, load_refused _ _ test_image_too_long, _, rfl⟩

-- StepNumberCountsFetchedSteps: the last word of memory, and one byte further
theorem witness_step_number : (∃ s t : State, s.pc.toNat = 0xFFE ∧ step s = .next t) ∧ (∃ s t : State, s.pc.toNat = 0xFFF ∧ step s = .next t) :=
  ⟨⟨{ State.reset with pc := 0xFFE }, _, by decide, rfl⟩, ⟨{ State.reset with pc := 0xFFF }, _, by decide, rfl⟩⟩

-- HostActionsKeepInvariant: a load, and Step
theorem witness_act_inv : State.reset.Inv ∧ (∃ t, act (.load [0x6A, 0x05]) State.reset = .next (t, .ok)) ∧ ∃ t r, act .step State.reset = .next (t, r) :=
  ⟨reset_inv, ⟨_, rfl⟩, _, _, rfl⟩

-- ReachableStatesSatisfyInvariant: reset, and a state a step beyond a load; EveryHostActionAnswers has reset_inv
theorem witness_reachable : Reachable State.reset ∧ ∃ t u, act (.load [0x6A, 0x05]) State.reset = .next (t, .ok) ∧
    act .step t = .next (u, .stepped .quiet) ∧ Reachable u ∧ u.getV 0xA = 5 :=
  ⟨.reset, _, _, rfl, rfl, .act (a := .step) (.act (a := .load [0x6A, 0x05]) .reset rfl) rfl, rfl⟩

-- EqualReadsMeanEqualMemories: a memory that was written and written back
theorem witness_equal_reads : ∃ m m' : Memory, m.wf = true ∧ m'.wf = true ∧ m.glyphs = m'.glyphs ∧ (State.reset.mem.write 0x300 7).bind (·.write 0x300 0) = some m ∧
    m' = State.reset.mem ∧ ∀ a, m.read a = m'.read a :=
  ⟨State.reset.mem, State.reset.mem, rfl, rfl, rfl, by decide, rfl, fun _ => rfl⟩

end Sys2Proof.Tests
end

section
/-! The values after reset (10_state.md R28): what a memory reads as before any write, item by item of the reset state. -/

namespace Sys2Proof.Machine

/-! ## A memory that lists no cell -/

/-- With no cell listed, an address that exists reads as its initial byte (20_memory.md R42). -/
theorem read_of_cells_nil {m : Memory} (hm : m.cells = []) {a : Nat} (ha : a < Config.memSize) :
    m.read a = some (m.initial a) := by
  simp [Memory.read, ha, hm, findCell]

theorem initial_of_lt (m : Memory) {a : Nat} (ha : a < 80) : m.initial a = m.glyphs[a] := dif_pos ha

theorem initial_of_le (m : Memory) {a : Nat} (ha : 80 ≤ a) : m.initial a = 0x00#8 := dif_neg (Nat.not_lt.2 ha)

/-! ## The reset state -/

theorem reset_read_glyph (a : Fin 80) : State.reset.mem.read a.val = some Config.glyphTable[a.val] := by
  have ha : a.val < Config.memSize := Nat.lt_trans a.isLt (by decide)
  rw [read_of_cells_nil rfl ha, initial_of_lt _ a.isLt]
  rfl

theorem reset_read_zero {a : Nat} (hlo : 0x050 ≤ a) (hhi : a ≤ 0xFFF) : State.reset.mem.read a = some 0x00#8 := by
  rw [read_of_cells_nil rfl (Nat.lt_succ_of_le hhi), initial_of_le _ hlo]

@[simp] theorem getV_reset (x : Reg) : State.reset.getV x = 0x00#8 := by
  simp [State.getV, State.reset]

@[simp] theorem getElem_stack_reset (k : Fin 16) : State.reset.stack[k.val] = 0x0000#16 := by
  simp [State.reset]

@[simp] theorem fb_reset : State.reset.fb = Framebuffer.dark := rfl

/-- Settles O47: memory by the bytes of an unwritten memory, the two vectors and the framebuffer by their lemmas, the scalar
items by the definition of the reset state. -/
theorem resetStateValues : Obligations.ResetStateValues := by
  have glyphZero : State.reset.mem.readBlock 0 5 = some [0xF0#8, 0x90#8, 0x90#8, 0x90#8, 0xF0#8] := by decide
  have dark : ∀ idx, State.reset.fb.cell idx = false := fun idx => by rw [fb_reset, cell_dark]
  exact ⟨reset_read_glyph, fun _ => reset_read_zero, glyphZero, getV_reset, rfl, rfl, getElem_stack_reset, rfl, rfl, rfl,
    dark, rfl, rfl, rfl⟩

end Sys2Proof.Machine
end

section
/-! Encoding a decoded word: the three formats rebuild a word from its own fields, and so the encoder undoes the decoder
(30_encoding.md R62, R64). A squash reports the encoded instruction, and this makes it the fetched word. -/

namespace Sys2Proof

/-! ## A word from its own fields -/

theorem formatA_of_fields {w : Word} {op : BitVec 4} (hop : fieldOp w = op.toNat) : formatA op (fieldNNN w) = w :=
  BitVec.eq_of_toNat_eq (by rw [toNat_formatA, toNat_of_op_nnn w, hop])

theorem formatXK_of_fields {w : Word} {op : BitVec 4} {kk : Byte} (hop : fieldOp w = op.toNat) (hkk : fieldKK w = kk) :
    formatXK op (fieldX w) kk = w :=
  BitVec.eq_of_toNat_eq (by rw [toNat_formatXK, toNat_of_op_x_kk w, hop, hkk])

theorem formatXYN_of_fields {w : Word} {op : BitVec 4} {n : Rows} (hop : fieldOp w = op.toNat) (hn : fieldN w = n) :
    formatXYN op (fieldX w) (fieldY w) n = w :=
  BitVec.eq_of_toNat_eq (by rw [toNat_formatXYN, toNat_of_fields w, hop, hn])

/-! ## The decoder's three levels -/

theorem encode_of_decode8 {w : Word} {i : Instr} (hop : fieldOp w = 0x8) (h : decode8 w = some i) : encode i = w := by
  unfold decode8 at h
  split at h <;> cases h
  all_goals exact formatXYN_of_fields hop (Fin.ext ‹_›)

theorem encode_of_decodeF {w : Word} {i : Instr} (hop : fieldOp w = 0xF) (h : decodeF w = some i) : encode i = w := by
  unfold decodeF at h
  split at h <;> cases h
  all_goals exact formatXK_of_fields hop (BitVec.eq_of_toNat_eq ‹_›)

/-- The encoder undoes the decoder: one case for each top nibble, with the format of its row (R65). -/
theorem encode_of_decodeWord {w : Word} {i : Instr} (h : decodeWord w = some i) : encode i = w := by
  unfold decodeWord at h
  split at h
  case h_1 hop =>
    split at h
    · cases h; exact Eq.symm ‹_›
    · split at h <;> cases h
      exact Eq.symm ‹_›
  case h_2 hop | h_3 hop | h_11 hop | h_12 hop => cases h; exact formatA_of_fields hop
  case h_4 hop | h_5 hop | h_7 hop | h_8 hop | h_13 hop => cases h; exact formatXK_of_fields hop rfl
  case h_6 hop | h_10 hop =>
    split at h <;> cases h
    exact formatXYN_of_fields hop ‹_›
  case h_9 hop => exact encode_of_decode8 hop h
  case h_14 hop => cases h; exact formatXYN_of_fields hop rfl
  case h_15 hop =>
    dsimp only at h
    split at h
    · cases h; exact formatXK_of_fields hop ‹_›
    · split at h <;> cases h
      exact formatXK_of_fields hop ‹_›
  case h_16 hop => exact encode_of_decodeF hop h
  case h_17 => cases h

end Sys2Proof
end

section
/-! The phases of a step (30_encoding.md R72), each said once: what a failed fetch, a squash and the tick change, the execute
phase of an instruction that meets its fault condition, and the step that they make up. -/

namespace Sys2Proof.Machine

/-! ## What the phases change -/

theorem SameExcept.mono {s t : State} {ks ls : List Item} (h : SameExcept ks s t) (hsub : ks ⊆ ls) : SameExcept ls s t :=
  fun k hk => h k (mt (@hsub k) hk)

/-- A failed fetch writes the outputs and the sticky record only (60_exceptions.md R155). -/
theorem sameExcept_fetchFailed (s : State) : SameExcept [.out, .firstDiag] s (fetchFailed s) := by
  intro k hk
  cases k <;> simp [Same, State.getV] at hk ⊢

/-- The squash of the model is the squash of R151. -/
theorem squashed_squash (s : State) (c : Cause) (w : Word) : Squashed c w s (s.squash c w) where
  pc := rfl
  diag := rfl
  renderEvent := rfl
  soundEvent := rfl
  firstDiag := rfl
  same := by
    intro k hk
    cases k <;> simp [Same] at hk ⊢

/-- A timer counts down to 0 and stays there (60_exceptions.md R164): the subtraction of natural numbers. -/
theorem toNat_countDown (b : Byte) : (countDown b).toNat = b.toNat - 1 := by
  unfold countDown
  split
  · simp [*]
  · bv_omega

/-- What follows the execute phase is the tick of R164 and R165. -/
theorem ticked_afterExec (u : State) : Ticked u (afterExec u) where
  dt := toNat_countDown u.dt
  st := toNat_countDown u.st
  soundNeeded := by simp
  soundEvent := by simp
  diag := rfl
  renderEvent := rfl
  same := by
    intro k hk
    cases k <;> simp [Same, State.getV] at hk ⊢

/-! ## The execute phase of a faulting instruction -/

@[simp] theorem length_bcdDigits (b : Byte) : (bcdDigits b).length = 3 := rfl

/-- No fault condition reads the outputs. -/
theorem faultCause_beforeExec (s : State) (i : Instr) : faultCause (beforeExec s) i = faultCause s i := by
  cases i <;> rfl

/-- An instruction that meets its condition in the table of 60_exceptions.md R150 is squashed, with its own word reported. A
condition on memory is the one under which the block transfer of the instruction answers nothing (R156). -/
theorem exec_of_faultCause {s : State} {i : Instr} {c : Cause} (h : faultCause s i = some c) :
    exec i s = .next (s.squash c (encode i)) := by
  cases i
  case call | ret | skp | sknp =>
    obtain ⟨hcond, ⟨⟩⟩ := Option.ite_none_right_eq_some.1 h
    exact if_pos hcond
  case drw x y n =>
    obtain ⟨⟨hn, hi⟩, ⟨⟩⟩ := Option.ite_none_right_eq_some.1 h
    have hblock : s.mem.readBlock s.i.toNat n.val = none :=
      (readBlock_eq_none ..).2 ⟨by omega, by simp only [Config.memSize]; omega⟩
    simp only [exec, execDrw, hblock]
  case ldB x =>
    obtain ⟨hi, ⟨⟩⟩ := Option.ite_none_right_eq_some.1 h
    have hblock : s.mem.writeBlock s.i.toNat (bcdDigits (s.getV x)) = none :=
      (writeBlock_eq_none ..).2 ⟨List.cons_ne_nil _ _, by simp only [Config.memSize, length_bcdDigits]; omega⟩
    simp only [exec, execLdB, hblock]
  case storeRegs x =>
    obtain ⟨hi, ⟨⟩⟩ := Option.ite_none_right_eq_some.1 h
    have hblock : s.mem.writeBlock s.i.toNat (s.regBlock x) = none :=
      (writeBlock_eq_none ..).2 ⟨List.ne_nil_of_length_eq_add_one (length_regBlock s x),
        by simp only [Config.memSize, length_regBlock]; omega⟩
    simp only [exec, execStoreRegs, hblock]
  case loadRegs x =>
    obtain ⟨hi, ⟨⟩⟩ := Option.ite_none_right_eq_some.1 h
    have hblock : s.mem.readBlock s.i.toNat (x.val + 1) = none :=
      (readBlock_eq_none ..).2 ⟨Nat.succ_ne_zero _, by simp only [Config.memSize]; omega⟩
    simp only [exec, execLoadRegs, hblock]
  all_goals cases h

/-! ## The step from its phases -/

theorem fetch_of_pc_le {s : State} (h : s.pc.toNat ≤ 0xFFE) : ∃ w, fetch s = some w :=
  Option.ne_none_iff_exists'.1 (mt (fetch_eq_none s).1 (Nat.not_lt.2 h))

theorem step_of_fetchBounds {s : State} (h : 0xFFE < s.pc.toNat) : step s = .next (fetchFailed s) := by
  rw [step, (fetch_eq_none s).2 h]

theorem step_of_unknownWord {s : State} {w : Word} (hf : fetch s = some w) (hd : decodeWord w = none) :
    step s = .next (afterExec ((beforeExec s).squash .unknownInstruction w)) := by
  simp only [step, hf, executeWord, hd]

theorem step_of_exec {s u : State} {w : Word} {i : Instr} (hf : fetch s = some w) (hd : decodeWord w = some i)
    (hx : exec i (beforeExec s) = .next u) : step s = .next (afterExec u) := by
  simp only [step, hf, executeWord, hd, hx]

/-- A decoded instruction that meets its fault condition is squashed with the fetched word, which is the word it encodes to. -/
theorem step_of_faultCause {s : State} {w : Word} {i : Instr} {c : Cause} (hf : fetch s = some w)
    (hd : decodeWord w = some i) (hc : faultCause s i = some c) :
    step s = .next (afterExec ((beforeExec s).squash c w)) := by
  rw [← faultCause_beforeExec] at hc
  refine step_of_exec hf hd ?_
  rw [exec_of_faultCause hc, encode_of_decodeWord hd]

/-- Settles O33: a failed fetch by its own frame; else the fetched word is squashed or executed, and the tick follows. -/
theorem stepIsFetchDecodeExecuteTick : Obligations.StepIsFetchDecodeExecuteTick := by
  intro s
  refine ⟨fun hpc => ⟨fetchFailed s, step_of_fetchBounds hpc, rfl, ?_⟩, fun hpc => ?_⟩
  · exact (sameExcept_fetchFailed s).mono (by simp)
  · obtain ⟨w, hf⟩ := fetch_of_pc_le hpc
    obtain ⟨hi, lo, hhi, hlo, rfl⟩ := (fetch_eq_some s w).1 hf
    refine ⟨hi, lo, hhi, hlo, fun hd => ?_, fun i c hd hc => ?_, fun i u hd hx => ?_⟩
    · exact ⟨_, _, step_of_unknownWord hf hd, squashed_squash .., ticked_afterExec _⟩
    · exact ⟨_, _, step_of_faultCause hf hd hc, squashed_squash .., ticked_afterExec _⟩
    · exact ⟨_, step_of_exec hf hd hx, ticked_afterExec u⟩

end Sys2Proof.Machine
end

section
/-! Control transfer (40_control_flow.md): the frame of a change to the program counter and the call stack, the targets of the
jumps and skips, and what `CALL` and `RET` do while the stack pointer leaves room for them. -/

namespace Sys2Proof.Machine

/-! ## Frames -/

theorem sameExcept_setPc (s : State) (p : Word) : SameExcept [.pc] s { s with pc := p } := by
  intro k hk
  cases k <;> simp [Same, State.getV] at hk ⊢

theorem sameExcept_setPcSp (s : State) (p : Word) (b : Byte) : SameExcept [.pc, .sp] s { s with pc := p, sp := b } := by
  intro k hk
  cases k <;> simp [Same, State.getV] at hk ⊢

theorem sameExcept_setPcSpStack (s : State) (p : Word) (b : Byte) (stack : Vector Word 16) :
    SameExcept [.pc, .sp, .stack] s { s with pc := p, sp := b, stack := stack } := by
  intro k hk
  cases k <;> simp [Same, State.getV] at hk ⊢

/-! ## Skips and jumps -/

theorem pc_skipIf_beq (s : State) (a b : Byte) : (s.skipIf (a == b)).pc = s.pc + (if a = b then 4 else 2) := by
  simp only [skipIf_pc, beq_iff_eq]

theorem pc_skipIf_bne (s : State) (a b : Byte) : (s.skipIf (a != b)).pc = s.pc + (if a = b then 2 else 4) := by
  simp only [skipIf_pc, bne_iff_ne, ne_eq, ite_not]

@[simp] theorem toNat_zext16 (nnn : Addr12) : (zext16 nnn).toNat = nnn.toNat :=
  BitVec.toNat_setWidth_of_le (by decide)

@[simp] theorem toNat_zextByte (b : Byte) : (zextByte b).toNat = b.toNat :=
  BitVec.toNat_setWidth_of_le (by decide)

/-- The target of `JP V0` needs no reduction: a 12-bit address and a byte sum to less than 2^16 (R87). -/
theorem toNat_zext16_add_zextByte (nnn : Addr12) (b : Byte) : (zext16 nnn + zextByte b).toNat = nnn.toNat + b.toNat := by
  have hn := nnn.isLt
  have hb := b.isLt
  rw [BitVec.toNat_add_of_lt (by rw [toNat_zext16, toNat_zextByte]; omega), toNat_zext16, toNat_zextByte]

/-! ## The call stack -/

/-- A legal stack pointer that is not full leaves an entry for `CALL` to push to; the empty stack's pointer wraps round to entry 0. -/
theorem toNat_sp_add_one_lt {s : State} (hl : s.spLegal) (hne : s.sp ≠ Config.spFull) : (s.sp + 1).toNat < 16 := by
  rcases hl with hempty | hlt
  · rw [hempty]; decide
  · simp only [Config.stackDepth, Config.spFull] at hlt hne
    bv_omega

/-- A legal stack pointer that is not the empty stack's is the index of an entry for `RET` to pop. -/
theorem toNat_sp_lt {s : State} (hl : s.spLegal) (hne : s.sp ≠ Config.spEmpty) : s.sp.toNat < 16 :=
  hl.resolve_left hne

theorem exec_call_of_lt (nnn : Addr12) {s : State} (h : (s.sp + 1).toNat < 16) :
    exec (.call nnn) s =
      .next { s with pc := zext16 nnn, sp := s.sp + 1, stack := s.stack.set (s.sp + 1).toNat s.pc } := by
  have hne : s.sp ≠ Config.spFull := fun e => absurd h (by rw [e]; decide)
  simp only [exec, execCall, if_neg hne, dif_pos h]

theorem exec_ret_of_lt {s : State} (h : s.sp.toNat < 16) :
    exec .ret s = .next { s with pc := s.stack[s.sp.toNat] + 2, sp := s.sp - 1 } := by
  have hne : s.sp ≠ Config.spEmpty := fun e => absurd h (by rw [e]; decide)
  simp only [exec, execRet, if_neg hne, dif_pos h]

/-! ## The statements -/

/-- Settles O7: the two forms of a skip's target, each for an immediate and for a register. -/
theorem registerSkips : Obligations.RegisterSkips := fun _ _ _ s =>
  ⟨⟨_, rfl, pc_skipIf_beq s .., sameExcept_setPc s _⟩, ⟨_, rfl, pc_skipIf_bne s .., sameExcept_setPc s _⟩,
   ⟨_, rfl, pc_skipIf_beq s .., sameExcept_setPc s _⟩, ⟨_, rfl, pc_skipIf_bne s .., sameExcept_setPc s _⟩⟩

/-- Settles O8: the targets as natural numbers. -/
theorem jumpTargets : Obligations.JumpTargets := fun nnn s =>
  ⟨⟨_, rfl, toNat_zext16 nnn, sameExcept_setPc s _⟩, ⟨_, rfl, toNat_zext16_add_zextByte nnn _, sameExcept_setPc s _⟩⟩

/-- Settles O9: the push to the entry above the top, or the squash by the fault table. -/
theorem callPushesItsAddress : Obligations.CallPushesItsAddress := by
  intro nnn s hl
  refine ⟨fun hne => ?_, fun hfull => ?_⟩
  · have hlt := toNat_sp_add_one_lt hl hne
    refine ⟨_, exec_call_of_lt nnn hlt, rfl, ?_, fun k hk => ?_, toNat_zext16 nnn, sameExcept_setPcSpStack s _ _ _⟩
    · exact Vector.getElem?_set_self hlt
    · exact Vector.getElem_set_ne hlt k.isLt hk.symm
  · exact ⟨_, exec_of_faultCause (if_pos hfull), squashed_squash ..⟩

/-- Settles O10: the pop of the top entry, or the squash by the fault table. -/
theorem returnPopsAddress : Obligations.ReturnPopsAddress := by
  intro s hl
  refine ⟨fun hne => ?_, fun hempty => ?_⟩
  · have hlt := toNat_sp_lt hl hne
    exact ⟨_, _, exec_ret_of_lt hlt, Vector.getElem?_eq_getElem hlt, rfl, rfl, sameExcept_setPcSp s _ _⟩
  · exact ⟨_, exec_of_faultCause (if_pos hempty), squashed_squash ..⟩

end Sys2Proof.Machine
end

section
/-! Arithmetic, logic and shifts (41_arith_logic.md): what an instruction that ends in one register write, or in a result and a
flag, leaves in the registers and in every other item, and the results and flags as numbers. -/

namespace Sys2Proof.Machine

/-! ## Frames -/

theorem sameExcept_setVPc (s : State) (v : Vector Byte 16) (p : Word) : SameExcept [.v, .pc] s { s with v := v, pc := p } := by
  intro k hk
  cases k <;> simp [Same] at hk ⊢

theorem sameRegsExcept_setV (s : State) (x : Reg) (b : Byte) : SameRegsExcept [x] s (s.setV x b) := by
  intro r hr
  rw [getV_setV, if_neg (List.ne_of_not_mem_cons hr)]

theorem sameRegsExcept_setResultAndFlag (s : State) (x : Reg) (a b : Byte) :
    SameRegsExcept [x, vF] s (s.setResultAndFlag x a b) := by
  intro r hr
  obtain ⟨hx, hF⟩ : r ≠ x ∧ r ≠ vF := by simpa using hr
  rw [getV_setResultAndFlag, if_neg hF, if_neg hx]

/-! ## The two ends of an instruction -/

/-- An instruction that ends in one register write (R100 to R105): the value and the frame. -/
theorem done_setV (s : State) (x : Reg) (b : Byte) :
    ∃ t, done (s.setV x b) = .next t ∧ t.getV x = b ∧
      t.pc = s.pc + 2 ∧ SameRegsExcept [x] s t ∧ SameExcept [.v, .pc] s t := by
  refine ⟨_, rfl, ?_, rfl, sameRegsExcept_setV s x b, sameExcept_setVPc s _ _⟩
  rw [getV_advance, getV_setV, if_pos rfl]

/-- A register write whose value is known bit by bit (R103 to R105). -/
theorem done_setV_bits (s : State) (x : Reg) {b : Byte} {f : Nat → Bool} (hb : ∀ k, b.getLsbD k = f k) :
    ∃ t, done (s.setV x b) = .next t ∧ (∀ k, (t.getV x).getLsbD k = f k) ∧
      t.pc = s.pc + 2 ∧ SameRegsExcept [x] s t ∧ SameExcept [.v, .pc] s t := by
  obtain ⟨t, ht, rfl, hframe⟩ := done_setV s x b
  exact ⟨t, ht, hb, hframe⟩

/-- An instruction that ends in a result and a flag (R106 to R110): the flag is written last, so it is what register F holds
even as the destination (R112). -/
theorem done_setResultAndFlag (s : State) (x : Reg) (a b : Byte) :
    ∃ t, done (s.setResultAndFlag x a b) = .next t ∧ (x ≠ vF → t.getV x = a) ∧ t.getV vF = b ∧
      t.pc = s.pc + 2 ∧ SameRegsExcept [x, vF] s t ∧ SameExcept [.v, .pc] s t := by
  refine ⟨_, rfl, fun hx => ?_, ?_, rfl, sameRegsExcept_setResultAndFlag s x a b, sameExcept_setVPc s _ _⟩
  · rw [getV_advance, getV_setResultAndFlag, if_neg hx, if_pos rfl]
  · rw [getV_advance, getV_setResultAndFlag, if_pos rfl]

/-! ## Results and flags as numbers -/

theorem toNat_byte_sub (a b : Byte) : (a - b).toNat = (a.toNat + 256 - b.toNat) % 256 := by
  have hb := b.isLt
  rw [BitVec.toNat_sub]
  omega

theorem toNat_byte_shiftRight_one (a : Byte) : (a >>> 1).toNat = a.toNat / 2 := by
  rw [BitVec.toNat_ushiftRight, Nat.shiftRight_eq_div_pow, pow_one]

theorem toNat_byte_shiftLeft_one (a : Byte) : (a <<< 1).toNat = a.toNat * 2 % 256 := by
  rw [BitVec.toNat_shiftLeft, Nat.shiftLeft_eq, pow_one]

theorem flagByte_decide (p : Prop) [Decidable p] : flagByte (decide p) = if p then 1 else 0 := by
  simp only [flagByte, decide_eq_true_eq]

theorem toNat_flagByte (c : Bool) : (flagByte c).toNat = c.toNat := by
  cases c <;> rfl

theorem toNat_shiftRightFlag (a : Byte) : (shiftRightFlag a).toNat = a.toNat % 2 := by
  rw [shiftRightFlag, toNat_flagByte, BitVec.getLsbD, Nat.toNat_testBit, pow_zero, Nat.div_one]

/-- Bit 7 of a byte is the quotient by 128, which needs no reduction. -/
theorem toNat_shiftLeftFlag (a : Byte) : (shiftLeftFlag a).toNat = a.toNat / 128 := by
  have ha := a.isLt
  rw [shiftLeftFlag, toNat_flagByte, BitVec.getLsbD, Nat.toNat_testBit]
  omega

/-! ## The statements -/

/-- Settles O1: one register write each, the sum of bytes read as a number. -/
theorem immediateLoadAndAdd : Obligations.ImmediateLoadAndAdd := by
  intro x kk s
  refine ⟨done_setV s x kk, ?_⟩
  obtain ⟨t, ht, hval, hframe⟩ := done_setV s x (s.getV x + kk)
  exact ⟨t, ht, by rw [hval, BitVec.toNat_add], hframe⟩

/-- Settles O2: one register write each, the three bitwise results read bit by bit. -/
theorem moveAndLogic : Obligations.MoveAndLogic := fun x y s =>
  ⟨done_setV s x (s.getV y), done_setV_bits s x fun _ => BitVec.getLsbD_or, done_setV_bits s x fun _ => BitVec.getLsbD_and,
   done_setV_bits s x fun _ => BitVec.getLsbD_xor⟩

/-- Settles O3: the result and the carry as numbers, in the two registers written. -/
theorem addRegistersWithCarry : Obligations.AddRegistersWithCarry := by
  intro x y s
  obtain ⟨t, ht, hres, hflag, hframe⟩ :=
    done_setResultAndFlag s x (s.getV x + s.getV y) (carryFlag (s.getV x) (s.getV y))
  exact ⟨t, ht, fun hx => by rw [hres hx, BitVec.toNat_add], by rw [hflag, carryFlag, flagByte_decide], hframe⟩

/-- A difference and its no-borrow flag, for the operands in either order (R107, R109). -/
theorem done_sub (s : State) (x : Reg) (a b : Byte) :
    ∃ t, done (s.setResultAndFlag x (a - b) (noBorrowFlag a b)) = .next t ∧
      (x ≠ vF → (t.getV x).toNat = (a.toNat + 256 - b.toNat) % 256) ∧
      t.getV vF = (if a.toNat ≥ b.toNat then 1 else 0) ∧
      t.pc = s.pc + 2 ∧ SameRegsExcept [x, vF] s t ∧ SameExcept [.v, .pc] s t := by
  obtain ⟨t, ht, hres, hflag, hframe⟩ := done_setResultAndFlag s x (a - b) (noBorrowFlag a b)
  exact ⟨t, ht, fun hx => by rw [hres hx, toNat_byte_sub], by rw [hflag, noBorrowFlag, flagByte_decide], hframe⟩

/-- Settles O4: `SUBN` is `SUB` with the operands exchanged. -/
theorem subtractWithNoBorrow : Obligations.SubtractWithNoBorrow := fun x y s =>
  ⟨done_sub s x (s.getV x) (s.getV y), done_sub s x (s.getV y) (s.getV x)⟩

/-- Settles O5: result and flag as quotients and remainders; the meanings of the shifts do not take the field `y`, so one run
answers for every value of it. -/
theorem shiftsByOne : Obligations.ShiftsByOne := by
  intro x y s
  constructor
  · obtain ⟨t, ht, hres, hflag, hpc, hregs, hrest⟩ :=
      done_setResultAndFlag s x (s.getV x >>> 1) (shiftRightFlag (s.getV x))
    exact ⟨t, ht, fun hx => by rw [hres hx, toNat_byte_shiftRight_one], by rw [hflag, toNat_shiftRightFlag],
      hpc, hregs, hrest, fun _ => ht⟩
  · obtain ⟨t, ht, hres, hflag, hpc, hregs, hrest⟩ :=
      done_setResultAndFlag s x (s.getV x <<< 1) (shiftLeftFlag (s.getV x))
    exact ⟨t, ht, fun hx => by rw [hres hx, toNat_byte_shiftLeft_one], by rw [hflag, toNat_shiftLeftFlag],
      hpc, hregs, hrest, fun _ => ht⟩

end Sys2Proof.Machine
end

section
/-! The display (42_display.md): the cells that a sprite inverts as a set, what drawing over a set of cells does to the
framebuffer and to the collision record, and the two instructions that draw. A draw inverts each cell at most once (R122 item 1),
because the bits of a sprite land on different indices; so single pixels, columns and rows all meet one specification. -/

namespace Sys2Proof.Machine

/-! ## Drawing over a set of cells -/

/-- `d'` is the draw `d` (the framebuffer and `hit`) after each cell of `P` was inverted once, with a collision recorded for
every one that was lit. Members of `P` from 2048 up are dropped. -/
structure InvertsCells (P : Set Nat) (d d' : Framebuffer × Bool) : Prop where
  cell : ∀ k < Config.fbCells, (d'.1.cell k ≠ d.1.cell k ↔ k ∈ P)
  hit  : d'.2 = true ↔ d.2 = true ∨ ∃ k < Config.fbCells, d.1.cell k = true ∧ k ∈ P

theorem invertsCells_empty (d : Framebuffer × Bool) : InvertsCells ∅ d d where
  cell := by simp
  hit := by simp

/-- One sprite bit that is 1 inverts the cell it lands on. -/
theorem invertsCells_plot (d : Framebuffer × Bool) (a : Nat) : InvertsCells {a} d (plot d a) where
  cell k hk := by
    rw [cell_plot, Set.mem_singleton_iff]
    by_cases h : k = a
    · subst h; simp [hk]
    · simp [h]
  hit := by
    have lit_lt : d.1.cell a = true → a < Config.fbCells := fun h =>
      Nat.lt_of_not_le fun hle => by simp [cell_of_le d.1 hle] at h
    rw [hit_plot, Bool.or_eq_true]
    refine or_congr_right ⟨fun h => ⟨a, lit_lt h, h, rfl⟩, ?_⟩
    rintro ⟨_, -, h, rfl⟩
    exact h

/-- Drawing over one set of cells and then over another that shares none with it: no cell is inverted back, and the second part
finds its cells as they were before the first. -/
theorem InvertsCells.trans {P Q : Set Nat} {d d' d'' : Framebuffer × Bool} (h : InvertsCells P d d')
    (h' : InvertsCells Q d' d'') (hPQ : Disjoint P Q) : InvertsCells (P ∪ Q) d d'' := by
  have kept : ∀ k < Config.fbCells, k ∈ Q → d'.1.cell k = d.1.cell k := fun k hk hQ =>
    not_not.1 (mt (h.cell k hk).1 (Set.disjoint_right.1 hPQ hQ))
  constructor
  case cell =>
    intro k hk
    rw [Set.mem_union, ← h.cell k hk]
    by_cases hQ : k ∈ Q
    · have inverted := (h'.cell k hk).2 hQ
      rw [kept k hk hQ] at inverted
      simp only [inverted, hQ, ne_eq, not_false_eq_true, or_true]
    · have same := not_not.1 (mt (h'.cell k hk).1 hQ)
      simp only [same, hQ, or_false]
  case hit =>
    have second : (∃ k < Config.fbCells, d'.1.cell k = true ∧ k ∈ Q) ↔ ∃ k < Config.fbCells, d.1.cell k = true ∧ k ∈ Q :=
      exists_congr fun k => and_congr_right fun hk => and_congr_left fun hQ => by rw [kept k hk hQ]
    rw [h'.hit, h.hit, second, or_assoc]
    simp only [Set.mem_union, and_or_left, exists_or]

/-! ## The cells under a sprite -/

/-- The indices under the 1 bits in columns 0 to `k - 1` of a sprite row, drawn from column `vx` of screen row `y`. -/
def columnCells (vx y : Nat) (b : Byte) (k : Nat) : Set Nat :=
  {idx | ∃ col < k, b.getLsbD (7 - col) = true ∧ idx = vx + col + y * Config.fbWidth}

/-- The indices under the 1 bits of a sprite, drawn from column `vx` of screen row `y`. -/
def spriteCells (vx y : Nat) (sprite : List Byte) : Set Nat :=
  {idx | ∃ row b, sprite[row]? = some b ∧ idx ∈ columnCells vx (y + row) b 8}

theorem columnCells_zero (vx y : Nat) (b : Byte) : columnCells vx y b 0 = ∅ := by
  simp [columnCells]

theorem columnCells_succ (vx y : Nat) (b : Byte) (k : Nat) :
    columnCells vx y b (k + 1) =
      columnCells vx y b k ∪ if b.getLsbD (7 - k) then {vx + k + y * Config.fbWidth} else ∅ := by
  ext idx
  refine Nat.exists_lt_succ_right.trans (or_congr_right ?_)
  split <;> simp [*]

theorem spriteCells_nil (vx y : Nat) : spriteCells vx y [] = ∅ := by
  simp [spriteCells]

theorem spriteCells_cons (vx y : Nat) (b : Byte) (rest : List Byte) :
    spriteCells vx y (b :: rest) = columnCells vx y b 8 ∪ spriteCells vx (y + 1) rest := by
  ext idx
  refine Nat.or_exists_add_one.symm.trans (or_congr ?_ (exists_congr fun row => ?_))
  · simp
  · rw [List.getElem?_cons_succ, Nat.add_right_comm, Nat.add_assoc]

/-- Later columns of a row lie at higher indices. -/
theorem notMem_columnCells (vx y : Nat) (b : Byte) (k : Nat) : vx + k + y * Config.fbWidth ∉ columnCells vx y b k := by
  rintro ⟨col, hcol, -, h⟩
  omega

/-- A row is 8 columns wide and the screen 64, so no later row of a sprite reaches the indices of an earlier one. -/
theorem disjoint_columnCells_spriteCells (vx y : Nat) (b : Byte) (rest : List Byte) :
    Disjoint (columnCells vx y b 8) (spriteCells vx (y + 1) rest) := by
  refine Set.disjoint_left.2 ?_
  rintro _ ⟨col, hcol, -, rfl⟩ ⟨row, _, -, col', -, -, h⟩
  simp only [Config.fbWidth] at h
  omega

theorem invertsCells_drawColumns (vx y : Nat) (b : Byte) (k : Nat) (d : Framebuffer × Bool) :
    InvertsCells (columnCells vx y b k) d (drawColumns vx y b k d) := by
  induction k with
  | zero => rw [columnCells_zero]; exact invertsCells_empty d
  | succ k ih =>
    rw [columnCells_succ, drawColumns]
    split
    · exact ih.trans (invertsCells_plot _ _) (Set.disjoint_singleton_right.2 (notMem_columnCells vx y b k))
    · rw [Set.union_empty]; exact ih

theorem invertsCells_drawRows (vx y : Nat) (sprite : List Byte) (d : Framebuffer × Bool) :
    InvertsCells (spriteCells vx y sprite) d (drawRows vx y sprite d) := by
  induction sprite generalizing y d with
  | nil => rw [spriteCells_nil]; exact invertsCells_empty d
  | cons b rest ih =>
    rw [spriteCells_cons]
    exact (invertsCells_drawColumns vx y b 8 d).trans (ih (y + 1) _) (disjoint_columnCells_spriteCells vx y b rest)

/-- The cells under the sprite that was read are the cells of R121. -/
theorem mem_spriteCells_iff {s : State} {n : Nat} {sprite : List Byte} (h : s.mem.readBlock s.i.toNat n = some sprite)
    (vx vy idx : Nat) : idx ∈ spriteCells vx vy sprite ↔ SpriteCovers s vx vy n idx := by
  obtain ⟨hlen, hread⟩ := readBlock_spec h
  constructor
  · rintro ⟨row, b, hb, col, hcol, hbit, hidx⟩
    have hrow : row < n := hlen ▸ (List.getElem?_eq_some_iff.1 hb).1
    exact ⟨row, col, b, hrow, hcol, (hread row hrow).trans hb, hbit, hidx⟩
  · rintro ⟨row, col, b, hrow, hcol, hb, hbit, hidx⟩
    exact ⟨row, b, (hread row hrow).symm.trans hb, col, hcol, hbit, hidx⟩

/-! ## The two instructions -/

theorem sameExcept_display_pc (s : State) (fb : Framebuffer) (p : Word) :
    SameExcept [.fb, .renderNeeded, .out, .pc] s { s.display fb with pc := p } := by
  intro k hk
  cases k <;> simp [Same, State.getV] at hk ⊢

theorem sameExcept_display_setV_pc (s : State) (fb : Framebuffer) (x : Reg) (b : Byte) (p : Word) :
    SameExcept [.fb, .v, .renderNeeded, .out, .pc] s { (s.display fb).setV x b with pc := p } := by
  intro k hk
  cases k <;> simp [Same] at hk ⊢

/-- A draw whose sprite lies in memory: the pixels by exclusive or from a clear `hit`, then the flag. -/
theorem exec_drw_of_readBlock {s : State} {n : Rows} {sprite : List Byte} (x y : Reg)
    (h : s.mem.readBlock s.i.toNat n.val = some sprite) :
    ∃ d, InvertsCells (spriteCells (s.getV x).toNat (s.getV y).toNat sprite) (s.fb, false) d ∧
      exec (.drw x y n) s = .next (((s.display d.1).setV vF (flagByte d.2)).advance 2) :=
  ⟨_, invertsCells_drawRows _ _ sprite (s.fb, false), by simp only [exec, execDrw, h]⟩

/-- Settles O13: the dark framebuffer, and the frame of the display. -/
theorem clearScreen : Obligations.ClearScreen := fun s =>
  ⟨_, rfl, cell_dark, rfl, rfl, rfl, sameExcept_display_pc s Framebuffer.dark _⟩

/-- Settles O14: the cells and the flag of drawing over the sprite's cells, or the squash by the fault table. -/
theorem drawSpriteByExclusiveOr : Obligations.DrawSpriteByExclusiveOr := by
  intro x y n s
  refine ⟨fun hin => ?_, fun hout => ⟨_, exec_of_faultCause (if_pos hout), squashed_squash ..⟩⟩
  obtain ⟨sprite, hsprite⟩ : ∃ sprite, s.mem.readBlock s.i.toNat n.val = some sprite :=
    Option.isSome_iff_exists.1 ((readBlock_isSome ..).2 (by simp only [Config.memSize]; omega))
  obtain ⟨d, hdrawn, hexec⟩ := exec_drw_of_readBlock x y hsprite
  have hflag : (((s.display d.1).setV vF (flagByte d.2)).advance 2).getV vF = flagByte d.2 := by
    rw [getV_advance, getV_setV, if_pos rfl]
  refine ⟨_, hexec, fun idx hidx => ?_, ?_, ?_, rfl, rfl, rfl, sameRegsExcept_setV (s.display d.1) vF _,
    sameExcept_display_setV_pc s d.1 vF _ _⟩
  · rw [← mem_spriteCells_iff hsprite]
    exact hdrawn.cell idx hidx
  · rw [hflag]
    exact (Bool.eq_false_or_eq_true d.2).symm.imp (flagByte_eq_zero _).2 (flagByte_eq_one _).2
  · rw [hflag]
    simp only [← mem_spriteCells_iff hsprite]
    exact (flagByte_eq_one d.2).trans (by simpa [Config.fbCells] using hdrawn.hit)

end Sys2Proof.Machine
end

section
/-! Key queries and the timer registers (43_keys_timers.md): a key skip whose index names a key, the frames of the two timer
writes, and the two statements. -/

namespace Sys2Proof.Machine

/-! ## Frames -/

theorem sameExcept_setDtPc (s : State) (b : Byte) (p : Word) : SameExcept [.dt, .pc] s { s with dt := b, pc := p } := by
  intro k hk
  cases k <;> simp [Same, State.getV] at hk ⊢

theorem sameExcept_setStPc (s : State) (b : Byte) (p : Word) : SameExcept [.st, .pc] s { s with st := b, pc := p } := by
  intro k hk
  cases k <;> simp [Same, State.getV] at hk ⊢

/-! ## Key skips -/

theorem exec_skp_of_le {x : Reg} {s : State} (h : (s.getV x).toNat ≤ 15) :
    exec (.skp x) s = .next (s.skipIf (s.keyDown (s.getV x).toNat)) :=
  if_neg (Nat.not_lt.2 h)

theorem exec_sknp_of_le {x : Reg} {s : State} (h : (s.getV x).toNat ≤ 15) :
    exec (.sknp x) s = .next (s.skipIf (!s.keyDown (s.getV x).toNat)) :=
  if_neg (Nat.not_lt.2 h)

theorem pc_skipIf_not (s : State) (c : Bool) : (s.skipIf (!c)).pc = s.pc + (if c then 2 else 4) := by
  simp only [skipIf_pc, Bool.not_eq_true', ← Bool.not_eq_true, ite_not]

/-! ## The statements -/

/-- Settles O17: the skip on the key that the byte names, or the squash by the fault table. -/
theorem keySkips : Obligations.KeySkips := by
  intro x s
  refine ⟨fun hkey => ⟨?_, ?_⟩, fun hout => ⟨?_, ?_⟩⟩
  · exact ⟨_, exec_skp_of_le hkey, skipIf_pc .., sameExcept_setPc s _⟩
  · exact ⟨_, exec_sknp_of_le hkey, pc_skipIf_not .., sameExcept_setPc s _⟩
  · exact ⟨_, exec_of_faultCause (if_pos hout), squashed_squash ..⟩
  · exact ⟨_, exec_of_faultCause (if_pos hout), squashed_squash ..⟩

/-- Settles O18: one register write, and one write to each timer. -/
theorem timerCopies : Obligations.TimerCopies := fun x s =>
  ⟨done_setV s x s.dt, ⟨_, rfl, rfl, rfl, sameExcept_setDtPc s _ _⟩, ⟨_, rfl, rfl, rfl, sameExcept_setStPc s _ _⟩⟩

end Sys2Proof.Machine
end

section
/-! The index register and the memory transfers (44_index_memory.md): the frames of a change to `I` and to memory, the block
transfers whose addresses all exist, and the four statements. -/

namespace Sys2Proof.Machine

/-! ## Frames -/

theorem sameExcept_setIPc (s : State) (i p : Word) : SameExcept [.i, .pc] s { s with i := i, pc := p } := by
  intro k hk
  cases k <;> simp [Same, State.getV] at hk ⊢

theorem sameExcept_setIVPc (s : State) (i : Word) (v : Vector Byte 16) (p : Word) :
    SameExcept [.i, .v, .pc] s { s with i := i, v := v, pc := p } := by
  intro k hk
  cases k <;> simp [Same] at hk ⊢

theorem sameExcept_setMemPc (s : State) (m : Memory) (p : Word) : SameExcept [.mem, .pc] s { s with mem := m, pc := p } := by
  intro k hk
  cases k <;> simp [Same, State.getV] at hk ⊢

/-! ## Values of the index register and decimal digits -/

/-- Five times a byte needs no reduction to 16 bits (R142). -/
theorem toNat_glyphAddr (a : Byte) : (glyphAddr a).toNat = a.toNat * 5 := by
  have ha := a.isLt
  rw [glyphAddr, BitVec.toNat_ofNat, Nat.mod_eq_of_lt (by simp only [Config.glyphStride]; omega)]

/-- The digits of a byte, hundreds first, each below 10 and so exact as a byte (R143). -/
theorem bcdDigits_spec (a : Byte) : ∃ h d o, bcdDigits a = [h, d, o] ∧
    h.toNat = a.toNat / 100 ∧ d.toNat = a.toNat / 10 % 10 ∧ o.toNat = a.toNat % 10 := by
  have ha := a.isLt
  exact ⟨_, _, _, rfl, Nat.mod_eq_of_lt (by omega), Nat.mod_eq_of_lt (by omega),
    Nat.mod_eq_of_lt (by omega)⟩

/-! ## Blocks whose addresses all exist -/

/-- A block inside a canonical memory is written: its bytes read at its addresses, and every other address reads as before. -/
theorem exists_writeBlock {m : Memory} {a : Nat} {bs : List Byte} (hw : m.wf = true) (hfit : a + bs.length ≤ Config.memSize) :
    ∃ m', m.writeBlock a bs = some m' ∧ (∀ j < bs.length, m'.read (a + j) = bs[j]?) ∧
      ∀ k, k < a ∨ a + bs.length ≤ k → m'.read k = m.read k := by
  obtain ⟨m', hm'⟩ := Option.isSome_iff_exists.1 ((writeBlock_isSome m a bs).2 (.inr hfit))
  obtain ⟨-, -, hread⟩ := writeBlock_spec hw hm'
  refine ⟨m', hm', fun j hj => ?_, fun k hk => ?_⟩
  · rw [hread, if_pos ⟨Nat.le_add_right a j, Nat.add_lt_add_left hj a⟩, Nat.add_sub_cancel_left]
  · rw [hread, if_neg (by omega)]

/-- A block inside memory is read: its bytes are those of its addresses. -/
theorem exists_readBlock {m : Memory} {a n : Nat} (hfit : a + n ≤ Config.memSize) :
    ∃ bs, m.readBlock a n = some bs ∧ bs.length = n ∧ ∀ j < n, m.read (a + j) = bs[j]? := by
  obtain ⟨bs, hbs⟩ := Option.isSome_iff_exists.1 ((readBlock_isSome m a n).2 (.inr hfit))
  exact ⟨bs, hbs, readBlock_spec hbs⟩

/-- After a block load, a register with a byte in the block holds it, and every other is as before. -/
theorem getV_setRegsFrom_zero (s : State) (bs : List Byte) (r : Reg) :
    { s with v := setRegsFrom s.v 0 bs }.getV r = (bs[r.val]?).getD (s.getV r) :=
  getElem_setRegsFrom s.v 0 bs r.val r.isLt

/-! ## The transfers that are not squashed -/

theorem exec_ldB_of_writeBlock {s : State} {x : Reg} {m : Memory}
    (h : s.mem.writeBlock s.i.toNat (bcdDigits (s.getV x)) = some m) :
    exec (.ldB x) s = .next ({ s with mem := m }.advance 2) := by
  simp only [exec, execLdB, h]

theorem exec_storeRegs_of_writeBlock {s : State} {x : Reg} {m : Memory}
    (h : s.mem.writeBlock s.i.toNat (s.regBlock x) = some m) :
    exec (.storeRegs x) s = .next ({ s with mem := m }.advance 2) := by
  simp only [exec, execStoreRegs, h]

theorem exec_loadRegs_of_readBlock {s : State} {x : Reg} {bs : List Byte}
    (h : s.mem.readBlock s.i.toNat (x.val + 1) = some bs) :
    exec (.loadRegs x) s = .next ({ s with v := setRegsFrom s.v 0 bs }.advance 2) := by
  simp only [exec, execLoadRegs, h]

/-! ## The statements -/

/-- Settles O22: the block of registers written to memory, or the squash by the fault table. -/
theorem storeRegisterBlock : Obligations.StoreRegisterBlock := by
  intro x s hw
  refine ⟨fun hin => ?_, fun hout => ⟨_, exec_of_faultCause (if_pos hout), squashed_squash ..⟩⟩
  obtain ⟨m, hm, hinside, houtside⟩ := exists_writeBlock (a := s.i.toNat) (bs := s.regBlock x) hw
    (by simp only [length_regBlock, Config.memSize]; omega)
  rw [length_regBlock] at hinside houtside
  refine ⟨_, exec_storeRegs_of_writeBlock hm, fun r hr => ?_, fun a ha => houtside a (by omega), rfl,
    sameExcept_setMemPc s m _⟩
  calc m.read (s.i.toNat + r.val) = (s.regBlock x)[r.val]? := hinside r.val (Nat.lt_succ_of_le hr)
    _ = some (s.getV r) := by rw [getElem?_regBlock, if_pos hr]

/-- Settles O23: the bytes of the block in the registers that they are for, or the squash by the fault table. -/
theorem loadRegisterBlock : Obligations.LoadRegisterBlock := by
  intro x s
  refine ⟨fun hin => ?_, fun hout => ⟨_, exec_of_faultCause (if_pos hout), squashed_squash ..⟩⟩
  obtain ⟨bs, hbs, hlen, hread⟩ := exists_readBlock (m := s.mem) (a := s.i.toNat) (n := x.val + 1)
    (by simp only [Config.memSize]; omega)
  refine ⟨_, exec_loadRegs_of_readBlock hbs, fun r hr => ?_, fun r hr => ?_, rfl, sameExcept_setVPc s _ _⟩
  · have hlt : r.val < x.val + 1 := Nat.lt_succ_of_le hr
    rw [getV_advance, getV_setRegsFrom_zero, hread r.val hlt, List.getElem?_eq_getElem (hlen ▸ hlt), Option.getD_some]
  · rw [getV_advance, getV_setRegsFrom_zero, List.getElem?_eq_none (hlen ▸ hr), Option.getD_none]

/-- Settles O20: the values of `I` as numbers, and the flag from the untruncated sum, which register F holds even as the
operand. -/
theorem indexRegisterWrites : Obligations.IndexRegisterWrites := by
  intro nnn x s
  refine ⟨⟨_, rfl, toNat_zext16 nnn, rfl, sameExcept_setIPc s _ _⟩,
    ⟨_, rfl, ?_, ?_, rfl, sameRegsExcept_setV { s with i := _ } vF _, sameExcept_setIVPc s _ _ _⟩,
    ⟨_, rfl, toNat_glyphAddr _, rfl, sameExcept_setIPc s _ _⟩⟩
  · rw [advance_i, setV_i, BitVec.toNat_add, toNat_zextByte]
  · rw [getV_advance, getV_setV, if_pos rfl, indexFlag, flagByte_decide]

/-- Settles O21: the three digits written to memory, or the squash by the fault table. -/
theorem storeDecimalDigits : Obligations.StoreDecimalDigits := by
  intro x s hw
  refine ⟨fun hin => ?_, fun hout => ⟨_, exec_of_faultCause (if_pos hout), squashed_squash ..⟩⟩
  obtain ⟨m, hm, hinside, houtside⟩ := exists_writeBlock (a := s.i.toNat) (bs := bcdDigits (s.getV x)) hw
    (by simp only [length_bcdDigits, Config.memSize]; omega)
  rw [length_bcdDigits] at hinside houtside
  obtain ⟨h, d, o, hdigits, hh, hd, ho⟩ := bcdDigits_spec (s.getV x)
  rw [hdigits] at hinside
  exact ⟨_, h, d, o, exec_ldB_of_writeBlock hm, hinside 0 (by decide), hinside 1 (by decide), hinside 2 (by decide), hh, hd, ho,
    fun a ha => houtside a (by omega), rfl, sameExcept_setMemPc s m _⟩

end Sys2Proof.Machine
end

section
/-! The decoder undoes the encoder (30_encoding.md R62, R64), so a fetched word that is the encoding of an instruction says which
instruction the step runs. -/

namespace Sys2Proof

/-- The fields of an instruction's word are its operands and select its row (R65): one group of cases for each format. -/
theorem decodeWord_encode (i : Instr) : decodeWord (encode i) = some i := by
  cases i
  case cls | ret => decide
  case jp | call | ldI | jpV0 => simp [encode, decodeWord, fields_formatA]
  case seImm | sneImm | ldImm | addImm | rnd | skp | sknp => simp [encode, decodeWord, fields_formatXK]
  case ldVxDT | ldVxK | ldDTVx | ldSTVx | addI | ldF | ldB | storeRegs | loadRegs =>
    simp [encode, decodeWord, decodeF, fields_formatXK]
  case seReg | sneReg | drw => simp [encode, decodeWord, fields_formatXYN]
  case ldReg | or | and | xor | addReg | sub | shr | subn | shl =>
    simp [encode, decodeWord, decode8, fields_formatXYN]

theorem encode_injective : Function.Injective encode := fun i j h =>
  Option.some.inj (by rw [← decodeWord_encode i, h, decodeWord_encode])

end Sys2Proof
end

section
/-! What an instruction that meets no fault condition does to the outputs, the signals and the timers, and with it the three
outcomes of a step (30_encoding.md R72): the fetch fails, the execute phase raises a cause, or an instruction completes. -/

namespace Sys2Proof.Machine

/-! ## An instruction that completes -/

/-- The instructions that raise the render event when they complete (60_exceptions.md R166). -/
def displays : Instr → Bool
  | .cls | .drw _ _ _ => true
  | _ => false

/-- The delay timer that the tick finds after an instruction run in `s` (R164). -/
def dtAtTick (s : State) : Instr → Byte
  | .ldDTVx x => s.getV x
  | _ => s.dt

/-- The sound timer that the tick finds after an instruction run in `s` (R164, R165). -/
def stAtTick (s : State) : Instr → Byte
  | .ldSTVx x => s.getV x
  | _ => s.st

theorem displays_iff (i : Instr) : displays i = true ↔ i = .cls ∨ ∃ x y n, i = .drw x y n := by
  cases i <;> simp [displays]

theorem dtAtTick_of_ne {s : State} {i : Instr} (h : ∀ x, i ≠ .ldDTVx x) : dtAtTick s i = s.dt := by
  cases i
  case ldDTVx x => exact absurd rfl (h x)
  all_goals rfl

theorem stAtTick_of_ne {s : State} {i : Instr} (h : ∀ x, i ≠ .ldSTVx x) : stAtTick s i = s.st := by
  cases i
  case ldSTVx x => exact absurd rfl (h x)
  all_goals rfl

/-- What the execute phase of an instruction that completes leaves in the outputs, the signals and the timers. -/
structure Completed (i : Instr) (s u : State) : Prop where
  out          : u.out = { s.out with renderEvent := displays i || s.out.renderEvent }
  renderNeeded : u.renderNeeded = (displays i || s.renderNeeded)
  soundNeeded  : u.soundNeeded = s.soundNeeded
  dt           : u.dt = dtAtTick s i
  st           : u.st = stAtTick s i

/-- `RET` stops with an illegal stack pointer, so one that answers with entries in use pops one of the sixteen. -/
theorem sp_lt_of_exec_ret {s u : State} (hne : s.sp ≠ Config.spEmpty) (h : exec .ret s = .next u) : s.sp.toNat < 16 := by
  by_contra hge
  simp only [exec, execRet, if_neg hne, dif_neg hge] at h
  cases h

/-- `CALL` stops with an illegal stack pointer, so one that answers with room on the stack pushes to one of the sixteen entries. -/
theorem sp_add_one_lt_of_exec_call {nnn : Addr12} {s u : State} (hne : s.sp ≠ Config.spFull)
    (h : exec (.call nnn) s = .next u) : (s.sp + 1).toNat < 16 := by
  by_contra hge
  simp only [exec, execCall, if_neg hne, dif_neg hge] at h
  cases h

/-- A guard of the fault table that answers no cause does not hold. -/
theorem not_of_ite_some_eq_none {p : Prop} [Decidable p] {c : Cause} (h : (if p then some c else none) = none) : ¬ p :=
  fun hp => Option.some_ne_none c ((if_pos hp).symm.trans h)

theorem completed_of_exec_eq {i : Instr} {s t u : State} (ht : exec i s = .next t) (hu : exec i s = .next u)
    (h : Completed i s t) : Completed i s u :=
  Host.Outcome.next.inj (ht.symm.trans hu) ▸ h

/-- An instruction that meets no condition of the fault table and answers has completed: for the instructions of the table,
because the guard's negation is what its meaning needs to go on. -/
theorem completed_of_exec {i : Instr} {s u : State} (hc : faultCause s i = none) (hx : exec i s = .next u) :
    Completed i s u := by
  cases i
  case ret =>
    have hsp := sp_lt_of_exec_ret (not_of_ite_some_eq_none hc) hx
    exact completed_of_exec_eq (exec_ret_of_lt hsp) hx ⟨rfl, rfl, rfl, rfl, rfl⟩
  case call nnn =>
    have hsp := sp_add_one_lt_of_exec_call (not_of_ite_some_eq_none hc) hx
    exact completed_of_exec_eq (exec_call_of_lt nnn hsp) hx ⟨rfl, rfl, rfl, rfl, rfl⟩
  case skp x =>
    have hkey := Nat.not_lt.1 (not_of_ite_some_eq_none hc)
    exact completed_of_exec_eq (exec_skp_of_le hkey) hx ⟨rfl, rfl, rfl, rfl, rfl⟩
  case sknp x =>
    have hkey := Nat.not_lt.1 (not_of_ite_some_eq_none hc)
    exact completed_of_exec_eq (exec_sknp_of_le hkey) hx ⟨rfl, rfl, rfl, rfl, rfl⟩
  case drw x y n =>
    have hin := not_of_ite_some_eq_none hc
    obtain ⟨sprite, hsprite⟩ := Option.isSome_iff_exists.1 ((readBlock_isSome s.mem s.i.toNat n.val).2
      (by simp only [Config.memSize]; omega))
    obtain ⟨d, -, hexec⟩ := exec_drw_of_readBlock x y hsprite
    exact completed_of_exec_eq hexec hx ⟨rfl, rfl, rfl, rfl, rfl⟩
  case ldB x =>
    have hin := not_of_ite_some_eq_none hc
    obtain ⟨m, hm⟩ := Option.isSome_iff_exists.1 ((writeBlock_isSome s.mem s.i.toNat (bcdDigits (s.getV x))).2
      (.inr (by simp only [length_bcdDigits, Config.memSize]; omega)))
    exact completed_of_exec_eq (exec_ldB_of_writeBlock hm) hx ⟨rfl, rfl, rfl, rfl, rfl⟩
  case storeRegs x =>
    have hin := not_of_ite_some_eq_none hc
    obtain ⟨m, hm⟩ := Option.isSome_iff_exists.1 ((writeBlock_isSome s.mem s.i.toNat (s.regBlock x)).2
      (.inr (by simp only [length_regBlock, Config.memSize]; omega)))
    exact completed_of_exec_eq (exec_storeRegs_of_writeBlock hm) hx ⟨rfl, rfl, rfl, rfl, rfl⟩
  case loadRegs x =>
    have hin := not_of_ite_some_eq_none hc
    obtain ⟨bs, hbs, -⟩ := exists_readBlock (m := s.mem) (a := s.i.toNat) (n := x.val + 1)
      (by simp only [Config.memSize]; omega)
    exact completed_of_exec_eq (exec_loadRegs_of_readBlock hbs) hx ⟨rfl, rfl, rfl, rfl, rfl⟩
  case ldVxK x =>
    simp only [exec, execLdVxK] at hx
    split at hx <;> exact Host.Outcome.next.inj hx ▸ ⟨rfl, rfl, rfl, rfl, rfl⟩
  all_goals exact completed_of_exec_eq rfl hx ⟨rfl, rfl, rfl, rfl, rfl⟩

/-! ## The outcomes of a step -/

/-- The word fetched in `s` raises the cause `c` in the execute phase: it is unknown (60_exceptions.md R152), or its instruction
meets its fault condition (R153 to R157). -/
def RaisesCause (s : State) (w : Word) (c : Cause) : Prop :=
  fetch s = some w ∧
    ((decodeWord w = none ∧ c = .unknownInstruction) ∨ ∃ i, decodeWord w = some i ∧ faultCause s i = some c)

theorem step_of_raisesCause {s : State} {w : Word} {c : Cause} (h : RaisesCause s w c) :
    step s = .next (afterExec ((beforeExec s).squash c w)) := by
  obtain ⟨hf, ⟨hd, rfl⟩ | ⟨i, hd, hc⟩⟩ := h
  · exact step_of_unknownWord hf hd
  · exact step_of_faultCause hf hd hc

/-- The word of an instruction raises what the fault table gives that instruction. -/
theorem RaisesCause.faultCause_eq {s : State} {w : Word} {c : Cause} (h : RaisesCause s w c) {i : Instr}
    (hf : fetch s = some (encode i)) : faultCause s i = some c := by
  obtain ⟨hw, hcause⟩ := h
  obtain rfl : w = encode i := Option.some.inj (hw.symm.trans hf)
  rw [decodeWord_encode] at hcause
  obtain ⟨hnone, -⟩ | ⟨j, hj, hc⟩ := hcause
  · cases hnone
  · cases hj
    exact hc

/-- The three ways a step answers a next state. -/
inductive StepOutcome (s : State) : State → Prop where
  | fetchFailed (hpc : 0xFFE < s.pc.toNat) : StepOutcome s (fetchFailed s)
  | squashed {w : Word} {c : Cause} (hraise : RaisesCause s w c) : StepOutcome s (afterExec ((beforeExec s).squash c w))
  | completed {i : Instr} {u : State} (hf : fetch s = some (encode i)) (hc : faultCause s i = none)
      (hu : Completed i (beforeExec s) u) : StepOutcome s (afterExec u)

theorem stepOutcome {s t : State} (h : step s = .next t) : StepOutcome s t := by
  obtain ⟨hpc, rfl⟩ | ⟨w, hf, hd, rfl⟩ | ⟨w, i, u, hf, hd, hx, rfl⟩ := step_next h
  · exact .fetchFailed hpc
  · exact .squashed ⟨hf, .inl ⟨hd, rfl⟩⟩
  · obtain rfl := encode_of_decodeWord hd
    cases hc : faultCause s i with
    | none => exact .completed hf hc (completed_of_exec ((faultCause_beforeExec s i).trans hc) hx)
    | some c =>
      rw [exec_of_faultCause ((faultCause_beforeExec s i).trans hc)] at hx
      cases hx
      exact .squashed ⟨hf, .inr ⟨i, hd, hc⟩⟩

theorem pc_le_of_fetch {s : State} {w : Word} (hf : fetch s = some w) : s.pc.toNat ≤ 0xFFE :=
  Nat.not_lt.1 fun h => Option.some_ne_none w (hf.symm.trans ((fetch_eq_none s).2 h))

theorem fetch_eq_encode_iff {s : State} {i : Instr} (hf : fetch s = some (encode i)) (j : Instr) :
    fetch s = some (encode j) ↔ i = j := by
  rw [hf, Option.some_inj, encode_injective.eq_iff]

end Sys2Proof.Machine
end

section
/-! Diagnostics, the tick and the render event over whole steps (60_exceptions.md): the squash, the table of causes, the stall
after a failed fetch, and the statements. -/

namespace Sys2Proof.Machine

/-! ## The squash (R151) -/

/-- A squash and the tick after it change the program counter, the timers, the sound signal and the records only. -/
theorem sameExcept_afterExec_squash (s : State) (c : Cause) (w : Word) :
    SameExcept [.pc, .dt, .st, .soundNeeded, .out, .firstDiag, .stepNo] s (afterExec ((beforeExec s).squash c w)) := by
  intro k hk
  cases k <;> simp [Same, State.getV] at hk ⊢

/-- Settles O34: the step is the squash and the tick, read item by item. -/
theorem faultingInstructionIsSquashed : Obligations.FaultingInstructionIsSquashed := by
  intro s w c hf hcause
  exact ⟨_, step_of_raisesCause ⟨hf, hcause⟩, rfl, toNat_countDown s.dt, toNat_countDown s.st, by simp, rfl,
    sameExcept_afterExec_squash s c w⟩

/-! ## The table of causes (R150) -/

theorem diagOf_of_raisesCause {s : State} {w : Word} {c : Cause} (h : RaisesCause s w c) :
    diagOf s = some { cause := c, word := w, pc := s.pc } := by
  obtain ⟨hf, hcause⟩ := h
  rw [diagOf, if_neg (Nat.not_lt.2 (pc_le_of_fetch hf)), hf]
  obtain ⟨hd, rfl⟩ | ⟨i, hd, hc⟩ := hcause
  · simp only [hd]
  · simp only [hd, hc, Option.map_some]

theorem diagOf_of_faultCause_none {s : State} {i : Instr} (hf : fetch s = some (encode i)) (hc : faultCause s i = none) :
    diagOf s = none := by
  rw [diagOf, if_neg (Nat.not_lt.2 (pc_le_of_fetch hf)), hf]
  simp only [decodeWord_encode, hc, Option.map_none]

theorem diag_of_step {s t : State} (h : step s = .next t) : t.out.diag = diagOf s := by
  cases stepOutcome h with
  | fetchFailed hpc => exact (if_pos hpc).symm
  | squashed hraise => exact (diagOf_of_raisesCause hraise).symm
  | completed hf hc hu => rw [diagOf_of_faultCause_none hf hc, afterExec_out, hu.out]; rfl

/-- A load fails exactly when its image does not fit above 0x200 (70_reset_and_hazards.md R181). -/
theorem hostLoad_eq_none (bytes : List Byte) (s : State) : hostLoad bytes s = none ↔ 3584 < bytes.length := by
  rw [hostLoad]
  split
  case isTrue hfit =>
    simp only [imageWellFormed, Config.progMax, decide_eq_true_eq] at hfit
    rw [Option.map_eq_none_iff, writeBlock_eq_none]
    simp only [Config.memSize, Config.progBase]
    omega
  case isFalse hlong =>
    simpa [imageWellFormed] using hlong

theorem act_loadError_iff (s : State) (a : HostAction) :
    (∃ t, act a s = .next (t, .loadError)) ↔ ∃ bytes, a = .load bytes ∧ 3584 < bytes.length := by
  cases a
  case load bytes =>
    simp only [act, HostAction.load.injEq, exists_eq_left', ← hostLoad_eq_none bytes s]
    cases hostLoad bytes s <;> simp
  case step =>
    simp only [act]
    cases step s <;> simp
  all_goals simp [act]

/-- Settles O35: the diagnostic by the outcome of the step, `LoadError` by the host action, the codes by evaluation. -/
theorem diagnosticIsThatOfTheTable : Obligations.DiagnosticIsThatOfTheTable :=
  ⟨fun _ _ => diag_of_step, act_loadError_iff, rfl, rfl⟩

/-! ## The stall (R155) -/

/-- A second failed fetch finds the outputs and the sticky record as the first one left them. -/
theorem fetchFailed_fetchFailed (s : State) : fetchFailed (fetchFailed s) = fetchFailed s := by
  simp only [fetchFailed, State.report, State.clearOut, Option.or_assoc, Option.or_self]

/-- A run goes on from what its first step answers, on any machine. -/
theorem run_succ_of_step (M : Host.Core) {s t : M.State} (h : M.step s = .next t) (k : Nat) : M.run (k + 1) s = M.run k t := by
  rw [Host.Core.run, h]

theorem run_of_step_self (M : Host.Core) {s : M.State} (h : M.step s = .next s) (k : Nat) : M.run k s = .next s := by
  induction k with
  | zero => rfl
  | succ k ih => rw [run_succ_of_step M h, ih]

theorem run_succ_of_fetchBounds {s : State} (h : 0xFFE < s.pc.toNat) (k : Nat) :
    core.run (k + 1) s = .next (fetchFailed s) := by
  have hstuck : step (fetchFailed s) = .next (fetchFailed s) := by
    rw [step_of_fetchBounds (s := fetchFailed s) h, fetchFailed_fetchFailed]
  exact (run_succ_of_step core (step_of_fetchBounds h) k).trans (run_of_step_self core hstuck k)

/-- Settles O36: the state after a failed fetch is a fixed point of the step. -/
theorem fetchBoundsStallsForGood : Obligations.FetchBoundsStallsForGood := fun s k h =>
  ⟨fetchFailed s, run_succ_of_fetchBounds h k, rfl, sameExcept_fetchFailed s⟩

/-! ## The tick (R164, R165) -/

/-- What the tick finds in a step whose fetch succeeded: the timers as they were, or as this step's timer write left them, and
no sound event yet. -/
structure AtTick (s u : State) : Prop where
  dtKept      : (∀ x, fetch s ≠ some (encode (.ldDTVx x))) → u.dt = s.dt
  dtWritten   : ∀ x, fetch s = some (encode (.ldDTVx x)) → u.dt = s.getV x
  stKept      : (∀ x, fetch s ≠ some (encode (.ldSTVx x))) → u.st = s.st
  stWritten   : ∀ x, fetch s = some (encode (.ldSTVx x)) → u.st = s.getV x
  soundNeeded : u.soundNeeded = s.soundNeeded
  soundEvent  : u.out.soundEvent = false

/-- A squash happens for no timer write, since the fault table has no row for one. -/
theorem atTick_squash {s : State} {w : Word} {c : Cause} (h : RaisesCause s w c) : AtTick s ((beforeExec s).squash c w) where
  dtKept _ := rfl
  dtWritten _ hf := absurd (h.faultCause_eq hf) nofun
  stKept _ := rfl
  stWritten _ hf := absurd (h.faultCause_eq hf) nofun
  soundNeeded := rfl
  soundEvent := rfl

theorem atTick_of_completed {s u : State} {i : Instr} (hf : fetch s = some (encode i)) (h : Completed i (beforeExec s) u) :
    AtTick s u where
  dtKept hne := h.dt.trans (dtAtTick_of_ne fun x e => hne x (e ▸ hf))
  dtWritten x hx := by
    obtain rfl := (fetch_eq_encode_iff hf _).1 hx
    exact h.dt
  stKept hne := h.st.trans (stAtTick_of_ne fun x e => hne x (e ▸ hf))
  stWritten x hx := by
    obtain rfl := (fetch_eq_encode_iff hf _).1 hx
    exact h.st
  soundNeeded := h.soundNeeded
  soundEvent := by rw [h.out]; rfl

theorem step_ticks {s t : State} (h : step s = .next t) (hpc : s.pc.toNat ≤ 0xFFE) : ∃ u, AtTick s u ∧ t = afterExec u := by
  cases stepOutcome h with
  | fetchFailed hgt => exact absurd hpc (Nat.not_le.2 hgt)
  | squashed hraise => exact ⟨_, atTick_squash hraise, rfl⟩
  | completed hf _ hu => exact ⟨_, atTick_of_completed hf hu, rfl⟩

/-- The sound timer and the sound signal after the tick, from the value `b` that the tick finds in the timer (R165). -/
theorem AtTick.sound {s u : State} (h : AtTick s u) {b : Byte} (hb : u.st = b) :
    (afterExec u).st.toNat = b.toNat - 1 ∧ ((afterExec u).soundNeeded = true ↔ s.soundNeeded = true ∨ b = 1) ∧
      ((afterExec u).out.soundEvent = true ↔ b = 1) := by
  subst hb
  refine ⟨toNat_countDown u.st, ?_, ?_⟩
  · rw [← h.soundNeeded]; exact (ticked_afterExec u).soundNeeded
  · rw [(ticked_afterExec u).soundEvent, h.soundEvent]; simp

/-- Settles O37: the tick of the timers that the execute phase left, or the frame of a failed fetch. -/
theorem timersTickInEveryFetchedStep : Obligations.TimersTickInEveryFetchedStep := by
  intro s t h
  refine ⟨fun hpc => ?_, fun hpc => ?_⟩
  · obtain ⟨u, hu, rfl⟩ := step_ticks h hpc
    exact ⟨fun hne => hu.dtKept hne ▸ toNat_countDown u.dt, fun x hx => hu.dtWritten x hx ▸ toNat_countDown u.dt,
      fun hne => hu.sound (hu.stKept hne), fun x hx => hu.sound (hu.stWritten x hx)⟩
  · cases (step_of_fetchBounds hpc).symm.trans h
    exact ⟨rfl, rfl, rfl, rfl⟩

/-! ## The render event (R166) -/

/-- The step completes a `CLS` or a `DRW`. -/
def CompletesDisplay (s : State) : Prop :=
  fetch s = some (encode .cls) ∨ ∃ x y n, fetch s = some (encode (.drw x y n)) ∧ faultCause s (.drw x y n) = none

theorem CompletesDisplay.exists_instr {s : State} (h : CompletesDisplay s) :
    ∃ i, fetch s = some (encode i) ∧ faultCause s i = none := by
  obtain hf | ⟨x, y, n, hf, hc⟩ := h
  · exact ⟨_, hf, rfl⟩
  · exact ⟨_, hf, hc⟩

theorem completesDisplay_iff_displays {s : State} {i : Instr} (hf : fetch s = some (encode i)) (hc : faultCause s i = none) :
    CompletesDisplay s ↔ displays i = true := by
  simp only [CompletesDisplay, fetch_eq_encode_iff hf, displays_iff]
  refine or_congr_right ⟨?_, ?_⟩
  · rintro ⟨x, y, n, rfl, -⟩
    exact ⟨x, y, n, rfl⟩
  · rintro ⟨x, y, n, rfl⟩
    exact ⟨x, y, n, rfl, hc⟩

theorem renderEvent_iff_completesDisplay {s t : State} (h : step s = .next t) :
    t.out.renderEvent = true ↔ CompletesDisplay s := by
  cases stepOutcome h with
  | fetchFailed hpc =>
    refine iff_of_false nofun fun hd => ?_
    obtain ⟨i, hf, -⟩ := hd.exists_instr
    exact Nat.not_le.2 hpc (pc_le_of_fetch hf)
  | squashed hraise =>
    refine iff_of_false nofun fun hd => ?_
    obtain ⟨i, hf, hc⟩ := hd.exists_instr
    exact Option.some_ne_none _ ((hraise.faultCause_eq hf).symm.trans hc)
  | completed hf hc hu =>
    rw [completesDisplay_iff_displays hf hc, afterExec_out, hu.out]
    simp [StepOutput.quiet]

theorem renderNeeded_of_step {s t : State} (h : step s = .next t) :
    t.renderNeeded = true ↔ s.renderNeeded = true ∨ t.out.renderEvent = true := by
  cases stepOutcome h with
  | fetchFailed _ | squashed _ => simp [StepOutput.quiet]
  | completed _ _ hu => simp [hu.out, hu.renderNeeded, StepOutput.quiet, or_comm]

/-- Settles O38: by the outcome of the step. -/
theorem renderEventIffDisplayInstruction : Obligations.RenderEventIffDisplayInstruction := fun _ _ h =>
  ⟨renderEvent_iff_completesDisplay h, renderNeeded_of_step h⟩

end Sys2Proof.Machine
end

section
/-! Reset, load and the other host actions (70_reset_and_hazards.md): what each answers, the memory that a load leaves, the frame of
each action, and the statements. -/

namespace Sys2Proof.Machine

/-! ## The answers -/

theorem act_load_of_hostLoad {bytes : List Byte} {s t : State} (h : hostLoad bytes s = some t) :
    act (.load bytes) s = .next (t, .ok) := by
  simp only [act, h]

/-- An image that does not fit is refused and nothing is written (60_exceptions.md R158). -/
theorem act_load_of_long {bytes : List Byte} (s : State) (h : 3584 < bytes.length) :
    act (.load bytes) s = .next (s, .loadError) := by
  simp only [act, (hostLoad_eq_none bytes s).2 h]

theorem act_step_of_step {s t : State} (h : step s = .next t) : act .step s = .next (t, .stepped t.out) := by
  simp only [act, h]

/-! ## The frames -/

/-- A reset makes every item but memory and the model's records the reset value, and so does a load, which is a reset with another
memory (R180, R181). -/
theorem sameExcept_hostReset_setMem (s : State) (m : Memory) :
    SameExcept [.mem, .out, .firstDiag, .stepNo] State.reset { hostReset s with mem := m } := by
  intro k hk
  cases k <;> simp [Same, State.getV, hostReset] at hk ⊢

theorem sameExcept_hostSetKeys (k : BitVec 16) (s : State) : SameExcept [.keys] s (hostSetKeys k s) := by
  intro k hk
  cases k <;> simp [Same, State.getV, hostSetKeys] at hk ⊢

theorem sameExcept_hostAckRender (s : State) : SameExcept [.renderNeeded] s (hostAckRender s) := by
  intro k hk
  cases k <;> simp [Same, State.getV, hostAckRender] at hk ⊢

theorem sameExcept_hostAckSound (s : State) : SameExcept [.soundNeeded] s (hostAckSound s) := by
  intro k hk
  cases k <;> simp [Same, State.getV, hostAckSound] at hk ⊢

/-! ## The memory that a load leaves -/

/-- A memory holds the glyph table, zeros, the image from 512 up, and zeros after it (R181). -/
structure HoldsImage (glyphs : Vector Byte 80) (bytes : List Byte) (m : Memory) : Prop where
  image  : ∀ i (h : i < bytes.length), m.read (512 + i) = some bytes[i]
  glyphs : ∀ a : Fin 80, m.read a.val = some glyphs[a.val]
  zeros  : ∀ a, 80 ≤ a → a < 4096 → a < 512 ∨ 512 + bytes.length ≤ a → m.read a = some 0x00#8

/-- An image that fits, written from 512 up into a memory that lists no cell, leaves the initial bytes around it. -/
theorem exists_writeBlock_holdsImage (glyphs : Vector Byte 80) {bytes : List Byte} (hfit : bytes.length ≤ 3584) :
    ∃ m, ({ glyphs := glyphs, cells := [] } : Memory).writeBlock Config.progBase bytes = some m ∧ HoldsImage glyphs bytes m := by
  obtain ⟨m, hm, hinside, houtside⟩ := exists_writeBlock (m := { glyphs := glyphs, cells := [] }) (a := Config.progBase) (bs := bytes)
    rfl (by simp only [Config.progBase, Config.memSize]; omega)
  refine ⟨m, hm, fun i hi => ?image, fun a => ?glyphs, fun a hlo hhi hout => ?zeros⟩
  case image => rw [hinside i hi, List.getElem?_eq_getElem hi]
  case glyphs =>
    have ha : a.val < Config.progBase := Nat.lt_trans a.isLt (by decide)
    rw [houtside a.val (.inl ha), read_of_cells_nil rfl (Nat.lt_trans ha (by decide)), initial_of_lt _ a.isLt]
  case zeros => rw [houtside a hout, read_of_cells_nil rfl hhi, initial_of_le _ hlo]

theorem exists_hostLoad {bytes : List Byte} (s : State) (hfit : bytes.length ≤ 3584) :
    ∃ m, hostLoad bytes s = some { hostReset s with mem := m } ∧ HoldsImage s.mem.glyphs bytes m := by
  obtain ⟨m, hm, himage⟩ := exists_writeBlock_holdsImage s.mem.glyphs hfit
  have hwf : imageWellFormed bytes = true := decide_eq_true hfit
  exact ⟨m, by rw [hostLoad, if_pos hwf]; exact congrArg (Option.map _) hm, himage⟩

/-- Everything a load that answers ok can do: a reset, with the image in memory. -/
theorem act_load_ok {bytes : List Byte} {s t : State} (h : act (.load bytes) s = .next (t, .ok)) :
    ∃ m, t = { hostReset s with mem := m } ∧ HoldsImage s.mem.glyphs bytes m := by
  rcases Nat.lt_or_ge 3584 bytes.length with hlong | hfit
  · cases (act_load_of_long s hlong).symm.trans h
  · obtain ⟨m, hm, himage⟩ := exists_hostLoad s hfit
    cases (act_load_of_hostLoad hm).symm.trans h
    exact ⟨m, rfl, himage⟩

/-! ## The statements -/

/-- Settles O48: the write of the image into the memory after a reset, or the refusal of an image that is too long. -/
theorem loadPlacesImageOrFailsCleanly : Obligations.LoadPlacesImageOrFailsCleanly := by
  refine fun bytes s => ⟨fun hfit => ?_, act_load_of_long s⟩
  obtain ⟨m, hm, himage⟩ := exists_hostLoad s hfit
  exact ⟨_, act_load_of_hostLoad hm, himage.image, himage.glyphs, himage.zeros, sameExcept_hostReset_setMem s m⟩

/-- At the entry point the fetch succeeds, since both of its bytes exist. -/
theorem fetch_at_resetPc {t : State} (hpc : t.pc = Config.resetPc) :
    ∃ hi lo, t.mem.read 0x200 = some hi ∧ t.mem.read 0x201 = some lo ∧ fetch t = some (wordOfBytes hi lo) := by
  have haddr : t.pc.toNat = 0x200 := congrArg BitVec.toNat hpc
  obtain ⟨w, hf⟩ := fetch_of_pc_le (s := t) (by omega)
  obtain ⟨hi, lo, hhi, hlo, rfl⟩ := (fetch_eq_some t w).1 hf
  rw [haddr] at hhi hlo
  exact ⟨hi, lo, hhi, hlo, hf⟩

/-- Settles O49: a reset and a load both leave `PC` at the entry point, where a load has put the image's first two bytes. -/
theorem firstFetchIsAtTheEntryPoint : Obligations.FirstFetchIsAtTheEntryPoint := by
  refine ⟨fun s t a r ha h => ?_, fun s t b0 b1 rest h => ?_⟩
  · have hpc : t.pc = Config.resetPc := by
      obtain rfl | ⟨bytes, rfl, rfl⟩ := ha
      · cases h; rfl
      · obtain ⟨m, rfl, -⟩ := act_load_ok h; rfl
    exact ⟨hpc, fetch_at_resetPc hpc⟩
  · obtain ⟨m, rfl, himage⟩ := act_load_ok h
    have hlen : 1 < (b0 :: b1 :: rest).length := by simp
    exact (fetch_eq_some _ _).2 ⟨b0, b1, himage.image 0 (Nat.lt_of_succ_lt hlen), himage.image 1 hlen, rfl⟩

/-- Settles O50: each action's answer with its frame; a load by O48's lemmas. -/
theorem hostActionEffects : Obligations.HostActionEffects := by
  intro s k bytes
  refine ⟨⟨_, rfl, rfl, sameExcept_hostReset_setMem s _⟩, fun hfit => ?_, act_load_of_long s,
    ⟨_, rfl, rfl, sameExcept_hostSetKeys k s⟩, rfl, rfl, ⟨_, rfl, rfl, sameExcept_hostAckRender s⟩,
    ⟨_, rfl, rfl, sameExcept_hostAckSound s⟩, fun _ => act_step_of_step⟩
  obtain ⟨m, hm, -⟩ := exists_hostLoad s hfit
  exact ⟨_, act_load_of_hostLoad hm, sameExcept_hostReset_setMem s m⟩

end Sys2Proof.Machine
end

section
/-! The encoding (30_encoding.md): decoding an encoded instruction, the words as numbers, and the decoder against the two tables
of the spec, that of the unknown words (R66) and the opcode map (R65). -/

namespace Sys2Proof

open Sys2Proof.Machine

/-! ## Encoded words -/

/-- Settles O26: the bytes of a word decode as the word, and the decoder undoes the encoder on words. -/
theorem decodeOfEncodeIsIdentity : Obligations.DecodeOfEncodeIsIdentity := by
  intro i rest _
  rw [decodeBytes_bytesOfWord, decodeWord_encode]

/-- Settles O27, by the formats rebuilt from the fields of a decoded word. -/
theorem encodeOfDecodeIsIdentity : Obligations.EncodeOfDecodeIsIdentity := fun _ _ => encode_of_decodeWord

/-- Settles O28: the numbers of the three formats, by the kind of the operands. -/
theorem encodedWordsHaveTheirLayout : Obligations.EncodedWordsHaveTheirLayout := by
  refine ⟨rfl, rfl, fun nnn => ?address, fun x kk => ?immediate, fun x y => ?registers, fun x y n => ?draw, fun x => ?register⟩
  case address => simp [encode, toNat_formatA]
  case immediate => simp [encode, toNat_formatXK]
  case registers => simp [encode, toNat_formatXYN]; omega
  case draw => simp [encode, toNat_formatXYN]
  case register => simp [encode, toNat_formatXK]; omega

/-- Settles O31: each word by evaluation. -/
theorem exampleWordsDecode : Obligations.ExampleWordsDecode := by
  unfold Obligations.ExampleWordsDecode
  decide

/-! ## The words that do not decode (R66) -/

theorem toNat_div_4096 (w : Word) : w.toNat / 0x1000 = fieldOp w := by
  have hnnn := (fieldNNN w).isLt
  rw [toNat_of_op_nnn]
  omega

theorem toNat_mod_16 (w : Word) : w.toNat % 16 = (fieldN w).val := by
  have hn := (fieldN w).isLt
  rw [toNat_of_fields]
  omega

theorem toNat_mod_256 (w : Word) : w.toNat % 256 = (fieldKK w).toNat := by
  have hkk := (fieldKK w).isLt
  rw [toNat_of_op_x_kk]
  omega

/-- The minor opcodes of the major opcode 8 that decode to nothing. -/
theorem decode8_eq_none_iff (w : Word) : decode8 w = none ↔ (fieldN w).val ∈ [8, 9, 10, 11, 12, 13, 15] := by
  have hn := (fieldN w).isLt
  unfold decode8
  split
  case h_10 => simp only [imp_false] at *; simp; omega
  all_goals simp [*]

theorem decodeF_eq_none_iff (w : Word) :
    decodeF w = none ↔ (fieldKK w).toNat ∉ [0x07, 0x0A, 0x15, 0x18, 0x1E, 0x29, 0x33, 0x55, 0x65] := by
  unfold decodeF
  split
  case h_10 => simp_all
  all_goals simp [*]

/-- The table of R66 read as fields of the word. -/
theorem unknownWord_iff_fields (w : Word) : unknownWord w.toNat ↔
    (fieldOp w = 0 ∧ w ≠ 0x00E0#16 ∧ w ≠ 0x00EE#16) ∨ (fieldOp w = 5 ∧ fieldN w ≠ 0) ∨
    (fieldOp w = 8 ∧ (fieldN w).val ∈ [8, 9, 10, 11, 12, 13, 15]) ∨ (fieldOp w = 9 ∧ fieldN w ≠ 0) ∨
    (fieldOp w = 14 ∧ fieldKK w ≠ 0x9E#8 ∧ fieldKK w ≠ 0xA1#8) ∨
    (fieldOp w = 15 ∧ (fieldKK w).toNat ∉ [0x07, 0x0A, 0x15, 0x18, 0x1E, 0x29, 0x33, 0x55, 0x65]) := by
  have hsmall : w.toNat < 0x1000 ↔ fieldOp w = 0 := by rw [← toNat_div_4096]; omega
  have hn : fieldN w ≠ 0 ↔ (fieldN w).val ≠ 0 := Fin.val_ne_zero_iff.symm
  simp only [unknownWord, hsmall, toNat_div_4096, toNat_mod_16, toNat_mod_256, hn, ← BitVec.toNat_inj, ne_eq, List.mem_cons,
    List.not_mem_nil, or_false, not_or]
  rfl

/-- The decoder and the table of R66 list the same minor opcodes under every top nibble. -/
theorem decodeWord_eq_none_iff (w : Word) : decodeWord w = none ↔ unknownWord w.toNat := by
  have hlt := fieldOp_lt w
  rw [unknownWord_iff_fields]
  unfold decodeWord
  split
  case h_9 hop => simp [hop, decode8_eq_none_iff]
  case h_16 hop => simp [hop, decodeF_eq_none_iff]
  case h_1 hop | h_15 hop => simp [hop, ite_eq_iff]
  case h_17 => interval_cases fieldOp w <;> contradiction
  all_goals simp [*]

/-- Settles O30, top nibble by top nibble. -/
theorem unknownWordsAreThoseOfTheTable : Obligations.UnknownWordsAreThoseOfTheTable := decodeWord_eq_none_iff

/-! ## The opcode map (R65) -/

/-- A word that selects two rows shows that they overlap. -/
theorem overlaps_of_selects {r q : OpRow} {w : Word} (hr : r.selects w = true) (hq : q.selects w = true) :
    r.overlaps q = true := by
  simp only [OpRow.selects, beq_iff_eq] at hr hq
  simp only [OpRow.overlaps, beq_iff_eq, ← hr, ← hq]
  ac_rfl

/-- In a well-formed map a word selects one row at most. -/
theorem filter_selects_of_mem {rows : List OpRow} {w : Word} (hwf : tableWellFormed rows = true) {r : OpRow} (hr : r ∈ rows)
    (hw : r.selects w = true) : rows.filter (·.selects w) = [r] := by
  induction rows with
  | nil => cases hr
  | cons q rest ih =>
    simp only [tableWellFormed, Bool.and_eq_true, List.all_eq_true, Bool.not_eq_true'] at hwf
    obtain ⟨⟨-, hdisjoint⟩, hrest⟩ := hwf
    have exclusive : ∀ p ∈ rest, ¬ (q.selects w = true ∧ p.selects w = true) := fun p hp ⟨hq, hsel⟩ =>
      Bool.false_ne_true ((hdisjoint p hp).symm.trans (overlaps_of_selects hq hsel))
    rcases List.mem_cons.1 hr with rfl | hmem
    · rw [List.filter_cons, if_pos hw, List.filter_eq_nil_iff.2 fun p hp hsel => exclusive p hp ⟨hw, hsel⟩]
    · rw [List.filter_cons, if_neg fun hq => exclusive r hmem ⟨hq, hw⟩, ih hrest hmem]

/-- A mask that is all ones over a part of a word keeps that part. -/
theorem extractLsb'_and_of_allOnes {w m : Word} {k l : Nat} (hm : m.extractLsb' k l = BitVec.allOnes l) :
    (w &&& m).extractLsb' k l = w.extractLsb' k l := by
  rw [BitVec.extractLsb'_and, hm, BitVec.and_allOnes]

/-- Whether a word decodes depends on its top nibble and, by it, on the whole word, on `n`, on `kk` or on nothing else (R64). -/
theorem decodeWord_eq_none_congr {w p : Word} (hop : fieldOp w = fieldOp p) (hword : fieldOp p = 0 → w = p)
    (hn : fieldOp p = 5 ∨ fieldOp p = 8 ∨ fieldOp p = 9 → fieldN w = fieldN p)
    (hkk : fieldOp p = 14 ∨ fieldOp p = 15 → fieldKK w = fieldKK p) : decodeWord w = none ↔ decodeWord p = none := by
  rw [decodeWord_eq_none_iff, decodeWord_eq_none_iff, unknownWord_iff_fields, unknownWord_iff_fields, hop]
  refine or_congr (and_congr_right fun h => ?_) <| or_congr (and_congr_right fun h => ?_) <|
    or_congr (and_congr_right fun h => ?_) <| or_congr (and_congr_right fun h => ?_) <|
    or_congr (and_congr_right fun h => ?_) (and_congr_right fun h => ?_)
  · rw [hword h]
  · rw [hn (.inl h)]
  · rw [hn (.inr (.inl h))]
  · rw [hn (.inr (.inr h))]
  · rw [hkk (.inl h)]
  · rw [hkk (.inr h)]

/-- Every row's pattern decodes, and its mask fixes the fields on which that depends. -/
theorem opTable_masks : ∀ r ∈ opTable, (decodeWord r.pattern).isSome = true ∧ r.mask.extractLsb' 12 4 = BitVec.allOnes 4 ∧
    (fieldOp r.pattern = 0 → r.mask = BitVec.allOnes 16) ∧
    (fieldOp r.pattern = 5 ∨ fieldOp r.pattern = 8 ∨ fieldOp r.pattern = 9 → r.mask.extractLsb' 0 4 = BitVec.allOnes 4) ∧
    (fieldOp r.pattern = 14 ∨ fieldOp r.pattern = 15 → r.mask.extractLsb' 0 8 = BitVec.allOnes 8) := by
  decide

/-- A word that selects a row decodes, since the row's pattern does. -/
theorem decodeWord_ne_none_of_selects {r : OpRow} (hr : r ∈ opTable) {w : Word} (h : r.selects w = true) : decodeWord w ≠ none := by
  obtain ⟨hpattern, hop, hword, hn, hkk⟩ := opTable_masks r hr
  have hw : w &&& r.mask = r.pattern := beq_iff_eq.1 h
  refine mt (decodeWord_eq_none_congr ?_ (fun h0 => ?_) (fun h4 => ?_) (fun h8 => ?_)).1 (Option.isSome_iff_ne_none.1 hpattern)
  · exact hw ▸ congrArg BitVec.toNat (extractLsb'_and_of_allOnes hop).symm
  · rw [← hw, hword h0, BitVec.and_allOnes]
  · exact hw ▸ congrArg BitVec.toFin (extractLsb'_and_of_allOnes (hn h4)).symm
  · exact hw ▸ (extractLsb'_and_of_allOnes (hkk h8)).symm

open Laws in
/-- Every instruction's word selects the row that bears its mnemonic. -/
theorem encodesItsRow : ∀ i : Instr, EncodesItsRow.Statement i
  | .cls => EncodesItsRow.cls
  | .ret => EncodesItsRow.ret
  | .jp nnn => EncodesItsRow.jp nnn
  | .call nnn => EncodesItsRow.call nnn
  | .seImm x kk => EncodesItsRow.seImm x kk
  | .sneImm x kk => EncodesItsRow.sneImm x kk
  | .seReg x y => EncodesItsRow.seReg x y
  | .ldImm x kk => EncodesItsRow.ldImm x kk
  | .addImm x kk => EncodesItsRow.addImm x kk
  | .ldReg x y => EncodesItsRow.ldReg x y
  | .or x y => EncodesItsRow.or x y
  | .and x y => EncodesItsRow.and x y
  | .xor x y => EncodesItsRow.xor x y
  | .addReg x y => EncodesItsRow.addReg x y
  | .sub x y => EncodesItsRow.sub x y
  | .shr x y => EncodesItsRow.shr x y
  | .subn x y => EncodesItsRow.subn x y
  | .shl x y => EncodesItsRow.shl x y
  | .sneReg x y => EncodesItsRow.sneReg x y
  | .ldI nnn => EncodesItsRow.ldI nnn
  | .jpV0 nnn => EncodesItsRow.jpV0 nnn
  | .rnd x kk => EncodesItsRow.rnd x kk
  | .drw x y n => EncodesItsRow.drw x y n
  | .skp x => EncodesItsRow.skp x
  | .sknp x => EncodesItsRow.sknp x
  | .ldVxDT x => EncodesItsRow.ldVxDT x
  | .ldVxK x => EncodesItsRow.ldVxK x
  | .ldDTVx x => EncodesItsRow.ldDTVx x
  | .ldSTVx x => EncodesItsRow.ldSTVx x
  | .addI x => EncodesItsRow.addI x
  | .ldF x => EncodesItsRow.ldF x
  | .ldB x => EncodesItsRow.ldB x
  | .storeRegs x => EncodesItsRow.storeRegs x
  | .loadRegs x => EncodesItsRow.loadRegs x

/-- Settles O29: the row of a decoded instruction is the one row selected; a word that does not decode selects none. -/
theorem decoderAgreesWithOpcodeMap : Obligations.DecoderAgreesWithOpcodeMap := by
  intro w
  cases hd : decodeWord w with
  | none =>
    have hnone : opTable.filter (·.selects w) = [] := List.filter_eq_nil_iff.2 fun r hr h => decodeWord_ne_none_of_selects hr h hd
    rw [hnone]; rfl
  | some i =>
    obtain ⟨r, hr, hname, hsel⟩ := encodesItsRow i
    rw [encode_of_decodeWord hd] at hsel
    rw [filter_selects_of_mem (by decide) hr hsel]
    simp [hname]

end Sys2Proof
end

section
/-! What the execute phase changes, said once for all instructions: an instruction that raises a cause is squashed
(60_exceptions.md R151), and one that completes writes the items of its row in the "written by" column of 10_state.md R10 and the
registers of R12. -/

namespace Sys2Proof.Machine

/-! ## The guarded instructions, when they complete

Each of these can raise a cause or stop. When it does neither, its guard holds and its next state is the one of its rule. -/

theorem squash_of_exec {i : Instr} {s u : State} {c : Cause} (hc : faultCause s i = some c) (hx : exec i s = .next u) :
    u = s.squash c (encode i) :=
  (Host.Outcome.next.inj ((exec_of_faultCause hc).symm.trans hx)).symm

theorem completed_ret {s u : State} (hc : faultCause s .ret = none) (hx : exec .ret s = .next u) :
    ∃ h : s.sp.toNat < 16, u = { s with pc := s.stack[s.sp.toNat] + 2, sp := s.sp - 1 } := by
  have hsp := sp_lt_of_exec_ret (not_of_ite_some_eq_none hc) hx
  cases (exec_ret_of_lt hsp).symm.trans hx
  exact ⟨hsp, rfl⟩

theorem completed_call {nnn : Addr12} {s u : State} (hc : faultCause s (.call nnn) = none) (hx : exec (.call nnn) s = .next u) :
    ∃ h : (s.sp + 1).toNat < 16,
      u = { s with pc := zext16 nnn, sp := s.sp + 1, stack := s.stack.set (s.sp + 1).toNat s.pc } := by
  have hsp := sp_add_one_lt_of_exec_call (not_of_ite_some_eq_none hc) hx
  cases (exec_call_of_lt nnn hsp).symm.trans hx
  exact ⟨hsp, rfl⟩

theorem completed_skp {x : Reg} {s u : State} (hc : faultCause s (.skp x) = none) (hx : exec (.skp x) s = .next u) :
    (s.getV x).toNat ≤ 15 ∧ u = s.skipIf (s.keyDown (s.getV x).toNat) := by
  have hkey := Nat.not_lt.1 (not_of_ite_some_eq_none hc)
  cases (exec_skp_of_le hkey).symm.trans hx
  exact ⟨hkey, rfl⟩

theorem completed_sknp {x : Reg} {s u : State} (hc : faultCause s (.sknp x) = none) (hx : exec (.sknp x) s = .next u) :
    (s.getV x).toNat ≤ 15 ∧ u = s.skipIf (!s.keyDown (s.getV x).toNat) := by
  have hkey := Nat.not_lt.1 (not_of_ite_some_eq_none hc)
  cases (exec_sknp_of_le hkey).symm.trans hx
  exact ⟨hkey, rfl⟩

/-- The state after a draw of the sprite's bytes (42_display.md R121). -/
def drawnState (s : State) (x y : Reg) (sprite : List Byte) : State :=
  let drawn := drawRows (s.getV x).toNat (s.getV y).toNat sprite (s.fb, false)
  ((s.display drawn.1).setV vF (flagByte drawn.2)).advance 2

theorem exec_drw_eq_drawnState {s : State} {x y : Reg} {n : Rows} {sprite : List Byte}
    (h : s.mem.readBlock s.i.toNat n.val = some sprite) : exec (.drw x y n) s = .next (drawnState s x y sprite) := by
  simp only [exec, execDrw, h, drawnState]

theorem completed_drw {x y : Reg} {n : Rows} {s u : State} (hc : faultCause s (.drw x y n) = none)
    (hx : exec (.drw x y n) s = .next u) :
    ∃ sprite, s.mem.readBlock s.i.toNat n.val = some sprite ∧ u = drawnState s x y sprite := by
  have hin := not_of_ite_some_eq_none hc
  obtain ⟨sprite, hsprite⟩ := Option.isSome_iff_exists.1 ((readBlock_isSome s.mem s.i.toNat n.val).2
    (by simp only [Config.memSize]; omega))
  cases (exec_drw_eq_drawnState hsprite).symm.trans hx
  exact ⟨sprite, hsprite, rfl⟩

theorem completed_ldB {x : Reg} {s u : State} (hc : faultCause s (.ldB x) = none) (hx : exec (.ldB x) s = .next u) :
    ∃ m, s.mem.writeBlock s.i.toNat (bcdDigits (s.getV x)) = some m ∧ u = { s with mem := m }.advance 2 := by
  have hin := not_of_ite_some_eq_none hc
  obtain ⟨m, hm⟩ := Option.isSome_iff_exists.1 ((writeBlock_isSome s.mem s.i.toNat (bcdDigits (s.getV x))).2
    (.inr (by simp only [length_bcdDigits, Config.memSize]; omega)))
  cases (exec_ldB_of_writeBlock hm).symm.trans hx
  exact ⟨m, hm, rfl⟩

theorem completed_storeRegs {x : Reg} {s u : State} (hc : faultCause s (.storeRegs x) = none)
    (hx : exec (.storeRegs x) s = .next u) :
    ∃ m, s.mem.writeBlock s.i.toNat (s.regBlock x) = some m ∧ u = { s with mem := m }.advance 2 := by
  have hin := not_of_ite_some_eq_none hc
  obtain ⟨m, hm⟩ := Option.isSome_iff_exists.1 ((writeBlock_isSome s.mem s.i.toNat (s.regBlock x)).2
    (.inr (by simp only [length_regBlock, Config.memSize]; omega)))
  cases (exec_storeRegs_of_writeBlock hm).symm.trans hx
  exact ⟨m, hm, rfl⟩

theorem completed_loadRegs {x : Reg} {s u : State} (hc : faultCause s (.loadRegs x) = none)
    (hx : exec (.loadRegs x) s = .next u) :
    ∃ bs, s.mem.readBlock s.i.toNat (x.val + 1) = some bs ∧ u = { s with v := setRegsFrom s.v 0 bs }.advance 2 := by
  have hin := not_of_ite_some_eq_none hc
  obtain ⟨bs, hbs, -⟩ := exists_readBlock (m := s.mem) (a := s.i.toNat) (n := x.val + 1)
    (by simp only [Config.memSize]; omega)
  cases (exec_loadRegs_of_readBlock hbs).symm.trans hx
  exact ⟨bs, hbs, rfl⟩

/-- `LD Vx,K` raises no cause: it picks a key, or waits. -/
theorem next_ldVxK {x : Reg} {s u : State} (hx : exec (.ldVxK x) s = .next u) :
    (∃ k, pickKey s.stepNo s.keys = some k ∧ u = (s.setV x (BitVec.ofNat 8 k)).advance 2) ∨
      (pickKey s.stepNo s.keys = none ∧ u = s) := by
  simp only [exec, execLdVxK] at hx
  split at hx <;> cases hx
  case h_1 k hk => exact .inl ⟨k, hk, rfl⟩
  case h_2 hk => exact .inr ⟨hk, rfl⟩

/-! ## The items that an instruction writes (R10) -/

/-- The items that an instruction writes when it completes. -/
def writes : Instr → List Item
  | .jp _ | .jpV0 _ | .seImm _ _ | .sneImm _ _ | .seReg _ _ | .sneReg _ _ | .skp _ | .sknp _ => [.pc]
  | .ret => [.pc, .sp]
  | .call _ => [.pc, .sp, .stack]
  | .ldImm _ _ | .addImm _ _ | .ldReg _ _ | .or _ _ | .and _ _ | .xor _ _ | .addReg _ _ | .sub _ _ | .shr _ _ | .subn _ _
  | .shl _ _ | .rnd _ _ | .ldVxDT _ | .ldVxK _ | .loadRegs _ => [.v, .pc]
  | .ldI _ | .ldF _ => [.i, .pc]
  | .addI _ => [.i, .v, .pc]
  | .cls => [.fb, .renderNeeded, .out, .pc]
  | .drw _ _ _ => [.fb, .v, .renderNeeded, .out, .pc]
  | .ldB _ | .storeRegs _ => [.mem, .pc]
  | .ldDTVx _ => [.dt, .pc]
  | .ldSTVx _ => [.st, .pc]

theorem sameExcept_refl (ks : List Item) (s : State) : SameExcept ks s s := by
  intro k _
  cases k <;> simp [Same]

/-- An instruction that completes changes only the items that it writes: the frame of its rule. -/
theorem sameExcept_writes {i : Instr} {s u : State} (hc : faultCause s i = none) (hx : exec i s = .next u) :
    SameExcept (writes i) s u := by
  cases i
  case ret => obtain ⟨_, rfl⟩ := completed_ret hc hx; exact sameExcept_setPcSp s _ _
  case call => obtain ⟨_, rfl⟩ := completed_call hc hx; exact sameExcept_setPcSpStack s _ _ _
  case skp => obtain ⟨_, rfl⟩ := completed_skp hc hx; exact sameExcept_setPc s _
  case sknp => obtain ⟨_, rfl⟩ := completed_sknp hc hx; exact sameExcept_setPc s _
  case drw => obtain ⟨_, _, rfl⟩ := completed_drw hc hx; exact sameExcept_display_setV_pc s _ _ _ _
  case ldB => obtain ⟨m, _, rfl⟩ := completed_ldB hc hx; exact sameExcept_setMemPc s m _
  case storeRegs => obtain ⟨m, _, rfl⟩ := completed_storeRegs hc hx; exact sameExcept_setMemPc s m _
  case loadRegs => obtain ⟨_, _, rfl⟩ := completed_loadRegs hc hx; exact sameExcept_setVPc s _ _
  case ldVxK =>
    obtain ⟨_, _, rfl⟩ | ⟨_, rfl⟩ := next_ldVxK hx
    · exact sameExcept_setVPc s _ _
    · exact sameExcept_refl _ u
  case cls => cases hx; exact sameExcept_display_pc s _ _
  case ldI | ldF => cases hx; exact sameExcept_setIPc s _ _
  case addI => cases hx; exact sameExcept_setIVPc s _ _ _
  case ldDTVx => cases hx; exact sameExcept_setDtPc s _ _
  case ldSTVx => cases hx; exact sameExcept_setStPc s _ _
  case jp | jpV0 | seImm | sneImm | seReg | sneReg => cases hx; exact sameExcept_setPc s _
  all_goals cases hx; exact sameExcept_setVPc s _ _

/-- What an instruction writes is what the table lists for it. -/
theorem mayWrite_of_mem_writes {i : Instr} {k : Item} (hk : k ∈ writes i) : mayWrite i k := by
  cases i
  case loadRegs x =>
    have hx : x ∈ destinations (.loadRegs x) := by simp [destinations]
    simp only [writes, List.mem_cons, List.not_mem_nil, or_false] at hk
    obtain rfl | rfl := hk
    · exact .inl (List.ne_nil_of_mem hx)
    · trivial
  all_goals cases k <;> simp [writes] at hk <;> simp [mayWrite, destinations, writesFlag]

/-- Settles O41: the frame of an instruction that completes, or of a squash. -/
theorem onlyListedWritersChangeAnItem : Obligations.OnlyListedWritersChangeAnItem := by
  intro i s u k hx hne
  cases hc : faultCause s i with
  | none => exact mayWrite_of_mem_writes (not_imp_comm.1 (sameExcept_writes hc hx k) hne)
  | some c =>
    have hfault : ∃ s, faultCause s i ≠ none := ⟨s, hc ▸ Option.some_ne_none c⟩
    obtain rfl := squash_of_exec hc hx
    have hk := not_imp_comm.1 ((squashed_squash s c (encode i)).same k) hne
    simp only [List.mem_cons, List.not_mem_nil, or_false] at hk
    obtain rfl | rfl | rfl := hk
    · trivial
    · exact .inr (.inr hfault)
    · exact hfault

/-! ## The registers that an instruction writes (R12) -/

/-- The registers that an instruction writes: its destinations, and `VF` if it writes a flag. -/
def regsWritten (i : Instr) : List Reg := destinations i ++ if writesFlag i then [vF] else []

theorem mem_regsWritten {i : Instr} {r : Reg} (h : r ∈ regsWritten i) : r ∈ destinations i ∨ (r = vF ∧ writesFlag i = true) := by
  obtain hd | hf := List.mem_append.1 h
  · exact .inl hd
  · split at hf
    case isTrue hflag => exact .inr ⟨List.mem_singleton.1 hf, hflag⟩
    case isFalse => cases hf

theorem sameRegsExcept_of_same_v {s u : State} (h : Same s u .v) (rs : List Reg) : SameRegsExcept rs s u := fun r _ => h r

/-- An instruction that completes changes only the registers that it writes. -/
theorem sameRegsExcept_regsWritten {i : Instr} {s u : State} (hc : faultCause s i = none) (hx : exec i s = .next u) :
    SameRegsExcept (regsWritten i) s u := by
  by_cases hv : Item.v ∈ writes i
  case neg => exact sameRegsExcept_of_same_v (sameExcept_writes hc hx .v hv) _
  case pos =>
    cases i
    case addReg | sub | shr | subn | shl => cases hx; exact sameRegsExcept_setResultAndFlag s _ _ _
    case drw => obtain ⟨_, _, rfl⟩ := completed_drw hc hx; exact sameRegsExcept_setV (s.display _) vF _
    case addI => cases hx; exact sameRegsExcept_setV { s with i := _ } vF _
    case loadRegs x =>
      obtain ⟨bs, hbs, rfl⟩ := completed_loadRegs hc hx
      intro r hr
      have hxr : x < r := by simpa [regsWritten, destinations, writesFlag] using hr
      rw [getV_advance, getV_setRegsFrom_zero, List.getElem?_eq_none ((readBlock_spec hbs).1 ▸ hxr), Option.getD_none]
    case ldVxK =>
      obtain ⟨_, _, rfl⟩ | ⟨_, rfl⟩ := next_ldVxK hx
      · exact sameRegsExcept_setV s _ _
      · exact fun _ _ => rfl
    case ldImm | addImm | ldReg | or | and | xor | rnd | ldVxDT => cases hx; exact sameRegsExcept_setV s _ _
    all_goals simp [writes] at hv

/-- Settles O42: the registers of an instruction that completes; a squash writes none. -/
theorem registersChangeOnlyAsNamed : Obligations.RegistersChangeOnlyAsNamed := by
  intro i s u r hx hne
  cases hc : faultCause s i with
  | none => exact mem_regsWritten (not_imp_comm.1 (sameRegsExcept_regsWritten hc hx r) hne)
  | some c => exact absurd (squash_of_exec hc hx ▸ getV_squash s r c (encode i)) hne

end Sys2Proof.Machine
end

section
/-! The invariant of the reachable states (10_state.md R29): each of its parts is kept by the execute phase, hence by every step and
every host action, and from a state that satisfies it every action answers. -/

namespace Sys2Proof.Machine

/-! ## The invariant reads four items -/

theorem State.Inv.congr {s t : State} (h : s.Inv) (hmem : t.mem = s.mem) (hsp : t.sp = s.sp) (hpc : t.pc = s.pc)
    (hstack : t.stack = s.stack) : t.Inv where
  memWf := hmem ▸ h.memWf
  spLegal := by rw [State.spLegal, hsp]; exact h.spLegal
  pcBound := hpc ▸ h.pcBound
  stackBound k := by rw [hstack]; exact h.stackBound k

/-- The invariant at the entry point, with an empty stack and any canonical memory: what a reset and a load leave. -/
theorem inv_hostReset_setMem (s : State) {m : Memory} (hm : m.wf = true) : { hostReset s with mem := m }.Inv where
  memWf := hm
  spLegal := .inl rfl
  pcBound := (by decide : Config.resetPc.toNat ≤ 0x10FE)
  stackBound k := by
    have hzero : ({ hostReset s with mem := m } : State).stack[k.val] = 0x0000#16 := getElem_stack_reset k
    rw [hzero]; decide

/-- Settles O51: the reset state lists no cell, and so its memory is in canonical form. -/
theorem resetSatisfiesInvariant : Obligations.ResetSatisfiesInvariant :=
  (inv_hostReset_setMem State.reset (m := State.reset.mem) rfl).congr rfl rfl rfl rfl

/-! ## The execute phase keeps it -/

/-- The execute phase leaves memory alone or writes one block to it at `I` (20_memory.md R46). -/
theorem mem_of_exec {i : Instr} {s u : State} (hx : exec i s = .next u) :
    u.mem = s.mem ∨ ∃ bs, s.mem.writeBlock s.i.toNat bs = some u.mem := by
  cases hc : faultCause s i with
  | some c => exact .inl (squash_of_exec hc hx ▸ squash_mem s c (encode i))
  | none =>
    cases i
    case ldB => obtain ⟨m, hm, rfl⟩ := completed_ldB hc hx; exact .inr ⟨_, hm⟩
    case storeRegs => obtain ⟨m, hm, rfl⟩ := completed_storeRegs hc hx; exact .inr ⟨_, hm⟩
    case ret => obtain ⟨_, rfl⟩ := completed_ret hc hx; exact .inl rfl
    case call => obtain ⟨_, rfl⟩ := completed_call hc hx; exact .inl rfl
    case skp => obtain ⟨_, rfl⟩ := completed_skp hc hx; exact .inl rfl
    case sknp => obtain ⟨_, rfl⟩ := completed_sknp hc hx; exact .inl rfl
    case drw => obtain ⟨_, _, rfl⟩ := completed_drw hc hx; exact .inl rfl
    case loadRegs => obtain ⟨_, _, rfl⟩ := completed_loadRegs hc hx; exact .inl rfl
    case ldVxK => obtain ⟨_, _, rfl⟩ | ⟨_, rfl⟩ := next_ldVxK hx <;> exact .inl rfl
    all_goals cases hx; exact .inl rfl

theorem memWf_of_exec {i : Instr} {s u : State} (hx : exec i s = .next u) (hw : s.mem.wf = true) : u.mem.wf = true := by
  obtain hmem | ⟨bs, hbs⟩ := mem_of_exec hx
  · rw [hmem]; exact hw
  · exact writeBlock_wf hw hbs

/-- One entry less than a legal stack pointer that is not empty: from the bottom entry it is the empty stack's (10_state.md R16). -/
theorem spLegal_sub_one {s t : State} (hlt : s.sp.toNat < 16) (ht : t.sp = s.sp - 1) : t.spLegal := by
  rw [State.spLegal, ht]
  by_cases hzero : s.sp = 0
  · exact .inl (by rw [hzero]; rfl)
  · refine .inr ?_
    simp only [Config.stackDepth]
    bv_omega

/-- `CALL` and `RET` alone move the stack pointer, and they keep it legal (R16). -/
theorem spLegal_of_exec {i : Instr} {s u : State} (hx : exec i s = .next u) (hl : s.spLegal) : u.spLegal := by
  cases hc : faultCause s i with
  | some c => obtain rfl := squash_of_exec hc hx; exact hl
  | none =>
    by_cases hsp : Item.sp ∈ writes i
    case neg =>
      have hsame : u.sp = s.sp := sameExcept_writes hc hx .sp hsp
      rw [State.spLegal, hsame]; exact hl
    case pos =>
      cases i
      case ret => obtain ⟨hlt, rfl⟩ := completed_ret hc hx; exact spLegal_sub_one hlt rfl
      case call => obtain ⟨hlt, rfl⟩ := completed_call hc hx; exact .inr hlt
      all_goals simp [writes] at hsp

/-- `CALL` alone writes a stack entry, with its own address (40_control_flow.md R82). -/
theorem stackBound_of_exec {i : Instr} {s u : State} (hx : exec i s = .next u) (hpc : s.pc.toNat ≤ 0xFFE)
    (hb : ∀ k : Fin 16, s.stack[k.val].toNat ≤ 0xFFE) (k : Fin 16) : u.stack[k.val].toNat ≤ 0xFFE := by
  cases hc : faultCause s i with
  | some c => obtain rfl := squash_of_exec hc hx; exact hb k
  | none =>
    by_cases hstack : Item.stack ∈ writes i
    case neg =>
      have hsame : ∀ k : Fin 16, u.stack[k.val] = s.stack[k.val] := sameExcept_writes hc hx .stack hstack
      rw [hsame]; exact hb k
    case pos =>
      cases i
      case call =>
        obtain ⟨hlt, rfl⟩ := completed_call hc hx
        simp only [Vector.getElem_set]
        split
        · exact hpc
        · exact hb k
      all_goals simp [writes] at hstack

theorem toNat_add_le (p k : Word) : (p + k).toNat ≤ p.toNat + k.toNat := by
  rw [BitVec.toNat_add]
  exact Nat.mod_le _ _

/-- From a fetched instruction an advance by 2 or a skip by 4 ends at 0x1002 or below. -/
theorem pc_add_le {p k : Word} (hp : p.toNat ≤ 0xFFE) (hk : k.toNat ≤ 4) : (p + k).toNat ≤ 0x10FE := by
  have := toNat_add_le p k
  omega

theorem pc_skipIf_le {s : State} (hpc : s.pc.toNat ≤ 0xFFE) (c : Bool) : (s.skipIf c).pc.toNat ≤ 0x10FE := by
  rw [skipIf_pc]
  exact pc_add_le hpc (by cases c <;> decide)

theorem toNat_zext16_le (nnn : Addr12) : (zext16 nnn).toNat ≤ 0x10FE := by
  have hn := nnn.isLt
  rw [toNat_zext16]
  omega

/-- Where a fetched instruction continues: at a jump's target, of which that of `JP V0` reaches farthest, to 0xFFF + 0xFF; 2 after a
return address; or a little after itself (R29 item 3). -/
theorem pcBound_of_exec {i : Instr} {s u : State} (hx : exec i s = .next u) (hpc : s.pc.toNat ≤ 0xFFE)
    (hb : ∀ k : Fin 16, s.stack[k.val].toNat ≤ 0xFFE) : u.pc.toNat ≤ 0x10FE := by
  cases hc : faultCause s i with
  | some c => obtain rfl := squash_of_exec hc hx; exact pc_add_le hpc (by decide)
  | none =>
    cases i
    case ret => obtain ⟨hlt, rfl⟩ := completed_ret hc hx; exact pc_add_le (hb ⟨_, hlt⟩) (by decide)
    case call => obtain ⟨_, rfl⟩ := completed_call hc hx; exact toNat_zext16_le _
    case jp => cases hx; exact toNat_zext16_le _
    case jpV0 nnn =>
      cases hx
      have hn := nnn.isLt
      have hv := (s.getV 0).isLt
      have htarget := toNat_zext16_add_zextByte nnn (s.getV 0)
      dsimp only
      omega
    case skp => obtain ⟨_, rfl⟩ := completed_skp hc hx; exact pc_skipIf_le hpc _
    case sknp => obtain ⟨_, rfl⟩ := completed_sknp hc hx; exact pc_skipIf_le hpc _
    case seImm | sneImm | seReg | sneReg => cases hx; exact pc_skipIf_le hpc _
    case drw => obtain ⟨_, _, rfl⟩ := completed_drw hc hx; exact pc_add_le hpc (by decide)
    case ldB => obtain ⟨_, _, rfl⟩ := completed_ldB hc hx; exact pc_add_le hpc (by decide)
    case storeRegs => obtain ⟨_, _, rfl⟩ := completed_storeRegs hc hx; exact pc_add_le hpc (by decide)
    case loadRegs => obtain ⟨_, _, rfl⟩ := completed_loadRegs hc hx; exact pc_add_le hpc (by decide)
    case ldVxK =>
      obtain ⟨_, _, rfl⟩ | ⟨_, rfl⟩ := next_ldVxK hx
      · exact pc_add_le hpc (by decide)
      · exact hpc.trans (by decide)
    all_goals cases hx; exact pc_add_le hpc (by decide)

/-- The execute phase of a fetched instruction keeps the invariant. -/
theorem inv_of_exec {i : Instr} {s u : State} (h : s.Inv) (hpc : s.pc.toNat ≤ 0xFFE) (hx : exec i s = .next u) : u.Inv where
  memWf := memWf_of_exec hx h.memWf
  spLegal := spLegal_of_exec hx h.spLegal
  pcBound := pcBound_of_exec hx hpc h.stackBound
  stackBound := stackBound_of_exec hx hpc h.stackBound

theorem inv_squash {s : State} (h : s.Inv) (hpc : s.pc.toNat ≤ 0xFFE) (c : Cause) (w : Word) : (s.squash c w).Inv where
  memWf := h.memWf
  spLegal := h.spLegal
  pcBound := pc_add_le hpc (by decide)
  stackBound := h.stackBound

/-! ## Steps and host actions keep it -/

theorem inv_of_step {s t : State} (h : s.Inv) (hstep : step s = .next t) : t.Inv := by
  have hbefore : (beforeExec s).Inv := h.congr rfl rfl rfl rfl
  obtain ⟨-, rfl⟩ | ⟨w, hf, -, rfl⟩ | ⟨w, i, u, hf, -, hx, rfl⟩ := step_next hstep
  · exact h.congr rfl rfl rfl rfl
  · exact (inv_squash hbefore (pc_le_of_fetch hf) .unknownInstruction w).congr rfl rfl rfl rfl
  · exact (inv_of_exec hbefore (pc_le_of_fetch hf) hx).congr rfl rfl rfl rfl

/-- Settles O52: the execute phase keeps the invariant, and the other phases change none of the items that it reads. -/
theorem stepKeepsInvariant : Obligations.StepKeepsInvariant := fun _ _ => inv_of_step

/-- A load that is not refused is a reset, and one block written to its memory. -/
theorem hostLoad_eq_some {bytes : List Byte} {s t : State} (h : hostLoad bytes s = some t) :
    ∃ m, (hostReset s).mem.writeBlock Config.progBase bytes = some m ∧ t = { hostReset s with mem := m } := by
  rw [hostLoad] at h
  split at h
  · obtain ⟨m, hm, rfl⟩ := Option.map_eq_some_iff.1 h
    exact ⟨m, hm, rfl⟩
  · cases h

/-- Everything a load can do: answer ok with a reset and a block written, or refuse and leave the state. -/
theorem act_load_next {bytes : List Byte} {s t : State} {r : HostReply} (h : act (.load bytes) s = .next (t, r)) :
    (r = .ok ∧ ∃ m, (hostReset s).mem.writeBlock Config.progBase bytes = some m ∧ t = { hostReset s with mem := m }) ∨
      (r = .loadError ∧ t = s) := by
  rw [act] at h
  split at h <;> cases h
  · exact .inl ⟨rfl, hostLoad_eq_some ‹_›⟩
  · exact .inr ⟨rfl, rfl⟩

/-- A step taken as a host action is the step. -/
theorem step_of_act_step {s t : State} {r : HostReply} (h : act .step s = .next (t, r)) : step s = .next t := by
  rw [act] at h
  split at h <;> cases h
  assumption

/-- Settles O57: a reset and a load start from the invariant, a step keeps it, and the other actions change no item that it reads. -/
theorem hostActionsKeepInvariant : Obligations.HostActionsKeepInvariant := by
  intro s t a r h hact
  cases a
  case reset => cases hact; exact inv_hostReset_setMem s rfl
  case load bytes =>
    obtain ⟨-, m, hm, rfl⟩ | ⟨-, rfl⟩ := act_load_next hact
    · exact inv_hostReset_setMem s (writeBlock_wf (m := (hostReset s).mem) rfl hm)
    · exact h
  case step => exact inv_of_step h (step_of_act_step hact)
  all_goals cases hact; exact h.congr rfl rfl rfl rfl

/-- Settles O53: by induction on the history. -/
theorem reachableStatesSatisfyInvariant : Obligations.ReachableStatesSatisfyInvariant := by
  intro s hs
  induction hs with
  | reset => exact resetSatisfiesInvariant
  | act _ ha ih => exact hostActionsKeepInvariant _ _ _ _ ih ha

/-! ## Every action answers (70_reset_and_hazards.md R188) -/

/-- With a legal stack pointer no instruction stops. -/
theorem exec_answers (i : Instr) {s : State} (hl : s.spLegal) : ∃ u, exec i s = .next u := by
  cases hc : faultCause s i with
  | some c => exact ⟨_, exec_of_faultCause hc⟩
  | none =>
    cases i
    case ret => exact ⟨_, exec_ret_of_lt (toNat_sp_lt hl (not_of_ite_some_eq_none hc))⟩
    case call nnn => exact ⟨_, exec_call_of_lt nnn (toNat_sp_add_one_lt hl (not_of_ite_some_eq_none hc))⟩
    case skp => exact ⟨_, exec_skp_of_le (Nat.not_lt.1 (not_of_ite_some_eq_none hc))⟩
    case sknp => exact ⟨_, exec_sknp_of_le (Nat.not_lt.1 (not_of_ite_some_eq_none hc))⟩
    case drw => simp only [exec, execDrw]; split <;> exact ⟨_, rfl⟩
    case ldB => simp only [exec, execLdB]; split <;> exact ⟨_, rfl⟩
    case storeRegs => simp only [exec, execStoreRegs]; split <;> exact ⟨_, rfl⟩
    case loadRegs => simp only [exec, execLoadRegs]; split <;> exact ⟨_, rfl⟩
    case ldVxK => simp only [exec, execLdVxK]; split <;> exact ⟨_, rfl⟩
    all_goals exact ⟨_, rfl⟩

theorem step_answers {s : State} (hl : s.spLegal) : ∃ t, step s = .next t := by
  cases hf : fetch s with
  | none => exact ⟨_, step_of_fetchBounds ((fetch_eq_none s).1 hf)⟩
  | some w =>
    cases hd : decodeWord w with
    | none => exact ⟨_, step_of_unknownWord hf hd⟩
    | some i =>
      obtain ⟨u, hu⟩ := exec_answers i (s := beforeExec s) hl
      exact ⟨_, step_of_exec hf hd hu⟩

/-- Settles O54: a step answers since the stack pointer is legal, a load with either reply. -/
theorem everyHostActionAnswers : Obligations.EveryHostActionAnswers := by
  intro s a h
  cases a
  case step =>
    obtain ⟨t, ht⟩ := step_answers h.spLegal
    exact ⟨_, _, act_step_of_step ht⟩
  case load bytes => rw [act]; split <;> exact ⟨_, _, rfl⟩
  all_goals exact ⟨_, _, rfl⟩

end Sys2Proof.Machine
end

section
/-! What no execute phase writes and what it does not read (10_state.md R10, R20 to R22, R25, R27), and with it the model's records
over steps and host actions: the sticky fault record (60_exceptions.md R172), the outputs and the step number. -/

namespace Sys2Proof.Machine

/-! ## Items that no instruction writes -/

/-- An item with no listed writer among the instructions is as it was after the execute phase. -/
theorem same_of_exec {i : Instr} {s u : State} {k : Item} (hx : exec i s = .next u) (hk : ¬ mayWrite i k) : Same s u k :=
  not_imp_comm.1 (onlyListedWritersChangeAnItem i s u k hx) hk

theorem keys_of_exec {i : Instr} {s u : State} (hx : exec i s = .next u) : u.keys = s.keys := same_of_exec (k := .keys) hx id

theorem soundNeeded_of_exec {i : Instr} {s u : State} (hx : exec i s = .next u) : u.soundNeeded = s.soundNeeded :=
  same_of_exec (k := .soundNeeded) hx id

theorem stepNo_of_exec {i : Instr} {s u : State} (hx : exec i s = .next u) : u.stepNo = s.stepNo :=
  same_of_exec (k := .stepNo) hx id

theorem glyphs_of_exec {i : Instr} {s u : State} (hx : exec i s = .next u) : u.mem.glyphs = s.mem.glyphs := by
  obtain hmem | ⟨bs, hbs⟩ := mem_of_exec hx
  · rw [hmem]
  · exact writeBlock_glyphs hbs

/-- Only a squash writes the sticky record. -/
theorem firstDiag_of_completed {i : Instr} {s u : State} (hc : faultCause s i = none) (hx : exec i s = .next u) :
    u.firstDiag = s.firstDiag :=
  sameExcept_writes hc hx .firstDiag (by cases i <;> simp [writes])

/-- Settles O43: the keys and the glyphs by the writers of the execute phase; render-needed by the render event; sound-needed is only
ever raised, by the tick. -/
theorem stepsNeverWriteKeysNorClearSignals : Obligations.StepsNeverWriteKeysNorClearSignals := by
  intro s t h
  have hrender : s.renderNeeded = true → t.renderNeeded = true := fun hs => (renderNeeded_of_step h).2 (.inl hs)
  obtain ⟨-, rfl⟩ | ⟨w, -, -, rfl⟩ | ⟨w, i, u, -, -, hx, rfl⟩ := step_next h
  · exact ⟨rfl, rfl, hrender, id⟩
  · exact ⟨rfl, rfl, hrender, fun hs => by simp [hs]⟩
  · have hkeys := keys_of_exec hx
    have hglyphs := glyphs_of_exec hx
    refine ⟨hkeys, hglyphs, hrender, fun hs => ?_⟩
    simp [soundNeeded_of_exec hx, hs]

/-- Settles O58: the number advances after the execute phase, which leaves it alone, and not after a failed fetch. -/
theorem stepNumberCountsFetchedSteps : Obligations.StepNumberCountsFetchedSteps := by
  intro s t h
  obtain ⟨hpc, rfl⟩ | ⟨w, hf, -, rfl⟩ | ⟨w, i, u, hf, -, hx, rfl⟩ := step_next h
  · exact ⟨fun hle => absurd hpc (Nat.not_lt.2 hle), fun _ => rfl⟩
  · exact ⟨fun _ => rfl, fun hgt => absurd (pc_le_of_fetch hf) (Nat.not_le.2 hgt)⟩
  · refine ⟨fun _ => ?_, fun hgt => absurd (pc_le_of_fetch hf) (Nat.not_le.2 hgt)⟩
    rw [afterExec_stepNo, stepNo_of_exec hx, beforeExec_stepNo]

/-! ## Records over steps and host actions -/

/-- The sticky record after a step: the one held before it, or else the step's diagnostic (60_exceptions.md R172). -/
theorem firstDiag_of_step {s t : State} (h : step s = .next t) : t.firstDiag = s.firstDiag.or t.out.diag := by
  obtain ⟨-, rfl⟩ | ⟨w, -, -, rfl⟩ | ⟨w, i, u, -, -, hx, rfl⟩ := step_next h
  · rfl
  · rfl
  · cases hc : faultCause (beforeExec s) i with
    | some c => obtain rfl := squash_of_exec hc hx; rfl
    | none =>
      have hquiet : u.out.diag = none := by rw [(completed_of_exec hc hx).out]; rfl
      rw [afterExec_firstDiag, firstDiag_of_completed hc hx, afterExec_out, hquiet, Option.or_none, beforeExec_firstDiag]

/-- Settles O56: action by action, a load by either of its replies. -/
theorem modelRecordsSurviveHostActions : Obligations.ModelRecordsSurviveHostActions := by
  intro s t a r hne hact
  cases a
  case step => exact absurd rfl hne
  case reset => cases hact; exact ⟨rfl, rfl, fun _ => rfl, fun h => absurd rfl h⟩
  case load bytes =>
    obtain ⟨rfl, m, -, rfl⟩ | ⟨rfl, rfl⟩ := act_load_next hact
    · refine ⟨rfl, rfl, fun _ => rfl, fun _ h => ?_⟩
      exact ((h bytes).elim (fun hb => hb rfl) (fun hr => hr rfl)).elim
    · refine ⟨rfl, rfl, fun h => ?_, fun _ _ => rfl⟩
      obtain hreset | ⟨_, -, hok⟩ := h
      · cases hreset
      · cases hok
  all_goals
    cases hact
    refine ⟨rfl, rfl, fun h => ?_, fun _ _ => rfl⟩
    obtain hreset | ⟨_, hload, -⟩ := h
    · cases hreset
    · cases hload

/-- Settles O40: the record after a step, and O56 for the other host actions. -/
theorem firstDiagnosticIsSticky : Obligations.FirstDiagnosticIsSticky := by
  have kept : ∀ (s t : State) (d : Diag), step s = .next t → s.firstDiag = some d → t.firstDiag = some d := fun s t d h hs => by
    rw [firstDiag_of_step h, hs, Option.some_or]
  refine ⟨fun s t h hs => ?_, fun s t a r d hact hs => ?_, kept⟩
  · rw [firstDiag_of_step h, hs, Option.none_or]
  · by_cases ha : a = .step
    · subst ha
      exact kept s t d (step_of_act_step hact) hs
    · rw [(modelRecordsSurviveHostActions s t a r ha hact).1, hs]

/-! ## Items that no instruction reads -/

/-- The state with other inputs of the step (the keys and the number of its draws), other signals and another sticky record. -/
def State.withUnread (s : State) (keys : BitVec 16) (renderNeeded soundNeeded : Bool) (firstDiag : Option Diag) (stepNo : Nat) :
    State :=
  { s with
    keys := keys
    renderNeeded := renderNeeded
    soundNeeded := soundNeeded
    firstDiag := firstDiag
    stepNo := stepNo }

/-- The instruction looks at no key. -/
def KeyBlind (i : Instr) : Prop := ∀ x, i ≠ .skp x ∧ i ≠ .sknp x ∧ i ≠ .ldVxK x

/-- The instruction takes no draw. -/
def DrawBlind (i : Instr) : Prop := (∀ x kk, i ≠ .rnd x kk) ∧ ∀ x, i ≠ .ldVxK x

section
variable {i : Instr} {s u : State} {keys : BitVec 16} {rn sn : Bool} {d : Option Diag} {n : Nat}

theorem faultCause_withUnread : faultCause (s.withUnread keys rn sn d n) i = faultCause s i := by
  cases i <;> rfl

/-- An instruction that completes does the same with other signals, another sticky record and other inputs that it does not read; only
the display instructions overwrite one of these, render-needed. -/
theorem exec_withUnread (hc : faultCause s i = none) (hx : exec i s = .next u) (hk : keys = s.keys ∨ KeyBlind i)
    (hn : n = s.stepNo ∨ DrawBlind i) :
    exec i (s.withUnread keys rn sn d n) = .next (u.withUnread keys (displays i || rn) sn d n) := by
  cases i
  case ret => obtain ⟨hlt, rfl⟩ := completed_ret hc hx; exact exec_ret_of_lt (s := s.withUnread keys rn sn d n) hlt
  case call nnn => obtain ⟨hlt, rfl⟩ := completed_call hc hx; exact exec_call_of_lt (s := s.withUnread keys rn sn d n) nnn hlt
  case skp x =>
    obtain ⟨hle, rfl⟩ := completed_skp hc hx
    obtain rfl : keys = s.keys := hk.resolve_right fun h => (h x).1 rfl
    exact exec_skp_of_le (s := s.withUnread s.keys rn sn d n) hle
  case sknp x =>
    obtain ⟨hle, rfl⟩ := completed_sknp hc hx
    obtain rfl : keys = s.keys := hk.resolve_right fun h => (h x).2.1 rfl
    exact exec_sknp_of_le (s := s.withUnread s.keys rn sn d n) hle
  case drw =>
    obtain ⟨_, hsprite, rfl⟩ := completed_drw hc hx
    exact exec_drw_eq_drawnState (s := s.withUnread keys rn sn d n) hsprite
  case ldB => obtain ⟨_, hm, rfl⟩ := completed_ldB hc hx; exact exec_ldB_of_writeBlock (s := s.withUnread keys rn sn d n) hm
  case storeRegs =>
    obtain ⟨_, hm, rfl⟩ := completed_storeRegs hc hx
    exact exec_storeRegs_of_writeBlock (s := s.withUnread keys rn sn d n) hm
  case loadRegs =>
    obtain ⟨_, hbs, rfl⟩ := completed_loadRegs hc hx
    exact exec_loadRegs_of_readBlock (s := s.withUnread keys rn sn d n) hbs
  case ldVxK x =>
    obtain rfl : keys = s.keys := hk.resolve_right fun h => (h x).2.2 rfl
    obtain rfl : n = s.stepNo := hn.resolve_right fun h => h.2 x rfl
    obtain ⟨k, hpick, rfl⟩ | ⟨hpick, rfl⟩ := next_ldVxK hx
    · simp only [exec, execLdVxK, State.withUnread, hpick]; rfl
    · simp only [exec, execLdVxK, State.withUnread, hpick]; rfl
  case rnd x kk =>
    obtain rfl : n = s.stepNo := hn.resolve_right fun h => h.1 x kk rfl
    cases hx; rfl
  all_goals cases hx; rfl

/-- With other inputs that the instruction does not read, the execute phase answers the same state with those inputs. -/
theorem exec_setInputs (hx : exec i s = .next u) (hk : keys = s.keys ∨ KeyBlind i) (hn : n = s.stepNo ∨ DrawBlind i) :
    exec i { s with keys := keys, stepNo := n } = .next { u with keys := keys, stepNo := n } := by
  cases hc : faultCause s i with
  | some c =>
    obtain rfl := squash_of_exec hc hx
    exact exec_of_faultCause ((faultCause_withUnread (rn := s.renderNeeded) (sn := s.soundNeeded) (d := s.firstDiag)).trans hc)
  | none =>
    have hu : u.withUnread keys (displays i || s.renderNeeded) s.soundNeeded s.firstDiag n = { u with keys := keys, stepNo := n } := by
      rw [← (completed_of_exec hc hx).renderNeeded, ← soundNeeded_of_exec hx, ← firstDiag_of_completed hc hx]; rfl
    exact (exec_withUnread hc hx hk hn).trans (congrArg Host.Outcome.next hu)

end

/-- Settles O45: the same run with other keys, and the step number that it has. -/
theorem keysAreReadOnlyByKeyInstructions : Obligations.KeysAreReadOnlyByKeyInstructions := by
  intro i s u k hblind hx
  have hu : { u with keys := k, stepNo := s.stepNo } = { u with keys := k } := by rw [← stepNo_of_exec hx]
  exact (exec_setInputs hx (.inr hblind) (.inl rfl)).trans (congrArg Host.Outcome.next hu)

/-- Settles O46: the same run with another step number, and the keys that it has. -/
theorem randomInputIsReadOnlyByRnd : Obligations.RandomInputIsReadOnlyByRnd := by
  intro i s u n hrnd hkey hx
  have hu : { u with keys := s.keys, stepNo := n } = { u with stepNo := n } := by rw [← keys_of_exec hx]
  exact (exec_setInputs hx (.inl rfl) (.inr ⟨hrnd, hkey⟩)).trans (congrArg Host.Outcome.next hu)

/-! ## A step does not read the signals and the records -/

/-- An instruction, squashed or completed, answers with other signals and another sticky record too, and differs in these only. -/
theorem exists_exec_withUnread {i : Instr} {s u : State} (hx : exec i s = .next u) (rn sn : Bool) (d : Option Diag) :
    ∃ rn' d', exec i (s.withUnread s.keys rn sn d s.stepNo) = .next (u.withUnread u.keys rn' sn d' u.stepNo) := by
  rw [keys_of_exec hx, stepNo_of_exec hx]
  cases hc : faultCause s i with
  | some c => obtain rfl := squash_of_exec hc hx; exact ⟨rn, _, exec_of_faultCause (faultCause_withUnread.trans hc)⟩
  | none => exact ⟨_, d, exec_withUnread hc hx (.inl rfl) (.inl rfl)⟩

/-- Two states that differ in the signals and the sticky record only still do so after the tick. -/
theorem sameExcept_afterExec_withUnread (u : State) (rn sn : Bool) (d : Option Diag) :
    SameExcept [.renderNeeded, .soundNeeded, .firstDiag] (afterExec u) (afterExec (u.withUnread u.keys rn sn d u.stepNo)) := by
  intro k hk
  cases k <;> simp [Same, State.getV, State.withUnread] at hk ⊢

/-- Settles O44: a failed fetch, an unknown word and a decoded instruction, each run in both states. The outputs are cleared before
the execute phase, so only the signals and the sticky record can differ there. -/
theorem signalsAndRecordsAreNeverRead : Obligations.SignalsAndRecordsAreNeverRead := by
  intro s t rn sn o d h
  obtain ⟨hpc, rfl⟩ | ⟨w, hf, hd, rfl⟩ | ⟨w, i, u, hf, hd, hx, rfl⟩ := step_next h
  · refine ⟨_, step_of_fetchBounds hpc, fun k hk => ?_⟩
    cases k <;> simp [Same, State.getV] at hk ⊢
  · exact ⟨_, step_of_unknownWord hf hd, sameExcept_afterExec_withUnread ((beforeExec s).squash .unknownInstruction w) rn sn _⟩
  · obtain ⟨rn', d', hu⟩ := exists_exec_withUnread hx rn sn d
    exact ⟨_, step_of_exec hf hd hu, sameExcept_afterExec_withUnread u rn' sn d'⟩

end Sys2Proof.Machine
end

section
/-! Instructions in sequence and in their corner cases: a call and its return, two draws of one sprite, a draw of which nothing is
visible, a block stored and loaded back, and a fetch of stored bytes. -/

namespace Sys2Proof.Machine

/-! ## Calls and returns (40_control_flow.md R80, R82) -/

/-- Settles O11: neither the squash's test nor the bound of the stack holds, for the pointer or for the one above it. -/
theorem illegalStackPointerStops : Obligations.IllegalStackPointerStops := by
  intro nnn s hl
  obtain ⟨hempty, hge⟩ : s.sp ≠ Config.spEmpty ∧ ¬ s.sp.toNat < 16 := not_or.1 hl
  have hfull : s.sp ≠ Config.spFull := fun h => hge (by rw [h]; decide)
  have hge' : ¬ (s.sp + 1).toNat < 16 := by
    simp only [Config.spEmpty] at hempty
    bv_omega
  exact ⟨by simp only [exec, execCall, if_neg hfull, dif_neg hge'], by simp only [exec, execRet, if_neg hempty, dif_neg hge]⟩

/-- Settles O12: the entry that `CALL` pushed is the one that `RET` pops. -/
theorem callThenReturnContinuesAfterCall : Obligations.CallThenReturnContinuesAfterCall := by
  intro nnn s t u w hl hne hcall hsp hstack hret
  have hlt := toNat_sp_add_one_lt hl hne
  cases (exec_call_of_lt nnn hlt).symm.trans hcall
  have hu : u.sp.toNat < 16 := hsp ▸ hlt
  cases (exec_ret_of_lt hu).symm.trans hret
  constructor
  · simp [hstack, hsp]
  · simp [hsp]

/-! ## Drawing (42_display.md) -/

/-- A draw whose sprite lies in memory: the bytes that were read, and the pixels they invert. -/
theorem exists_draw {x y : Reg} {n : Rows} {s t : State} (hin : n.val = 0 ∨ s.i.toNat + n.val - 1 ≤ 0xFFF)
    (hx : exec (.drw x y n) s = .next t) :
    ∃ sprite d, s.mem.readBlock s.i.toNat n.val = some sprite ∧
      InvertsCells (spriteCells (s.getV x).toNat (s.getV y).toNat sprite) (s.fb, false) d ∧
      t = ((s.display d.1).setV vF (flagByte d.2)).advance 2 := by
  have hc : faultCause s (.drw x y n) = none := if_neg (by omega)
  obtain ⟨sprite, hsprite, rfl⟩ := completed_drw hc hx
  exact ⟨sprite, _, hsprite, invertsCells_drawRows _ _ sprite (s.fb, false), rfl⟩

/-- Drawing twice over the same cells inverts each of them back. The second draw collides with the cells that the first turned on. -/
theorem InvertsCells.twice {P : Set Nat} {fb : Framebuffer} {d d' : Framebuffer × Bool} (h : InvertsCells P (fb, false) d)
    (h' : InvertsCells P (d.1, false) d') :
    d'.1 = fb ∧ (d'.2 = true ↔ ∃ idx, fb.cell idx = false ∧ d.1.cell idx = true) := by
  constructor
  · refine framebuffer_ext fun k hk => ?_
    have h1 := h.cell k hk
    have h2 := h'.cell k hk
    by_cases hP : k ∈ P
    · rw [Bool.eq_not_of_ne (h2.2 hP), Bool.eq_not_of_ne (h1.2 hP), Bool.not_not]
    · exact (not_not.1 (mt h2.1 hP)).trans (not_not.1 (mt h1.1 hP))
  · rw [h'.hit]
    constructor
    · rintro (hfalse | ⟨k, hk, hlit, hP⟩)
      · cases hfalse
      · have hinv := (h.cell k hk).2 hP
        rw [hlit] at hinv
        exact ⟨k, Bool.eq_false_of_not_eq_true hinv.symm, hlit⟩
    · rintro ⟨k, hdark, hlit⟩
      have hk : k < Config.fbCells := Nat.lt_of_not_le fun hle => by simp [cell_of_le d.1 hle] at hlit
      exact .inr ⟨k, hk, hlit, (h.cell k hk).1 (by simp [hdark, hlit])⟩

theorem getV_vF_afterDraw (s : State) (d : Framebuffer × Bool) :
    (((s.display d.1).setV vF (flagByte d.2)).advance 2).getV vF = flagByte d.2 := by
  rw [getV_advance, getV_setV, if_pos rfl]

theorem getV_afterDraw_of_ne (s : State) (d : Framebuffer × Bool) {x : Reg} (hx : x ≠ vF) :
    (((s.display d.1).setV vF (flagByte d.2)).advance 2).getV x = s.getV x := by
  rw [getV_advance, getV_setV, if_neg hx, getV_display]

/-- Settles O15: the first draw leaves memory, `I` and the two coordinates, so the second draws over the same cells. -/
theorem drawTwiceRestoresFramebuffer : Obligations.DrawTwiceRestoresFramebuffer := by
  intro x y n s t u hx hy hin hfirst hsecond
  obtain ⟨sprite, d, hsprite, hd, rfl⟩ := exists_draw hin hfirst
  obtain ⟨sprite', d', hsprite', hd', rfl⟩ := exists_draw (s := ((s.display d.1).setV vF (flagByte d.2)).advance 2) hin hsecond
  obtain rfl : sprite = sprite' := Option.some.inj (hsprite.symm.trans hsprite')
  rw [getV_afterDraw_of_ne s d hx, getV_afterDraw_of_ne s d hy] at hd'
  obtain ⟨hfb, hhit⟩ := hd.twice hd'
  refine ⟨hfb, ?_⟩
  rw [getV_vF_afterDraw]
  exact (flagByte_eq_one d'.2).trans hhit

/-- Drawing over no cell of the screen changes nothing and collides with nothing. -/
theorem InvertsCells.invisible {P : Set Nat} {fb : Framebuffer} {d : Framebuffer × Bool} (h : InvertsCells P (fb, false) d)
    (hP : ∀ k < Config.fbCells, k ∉ P) : d.1 = fb ∧ d.2 = false := by
  refine ⟨framebuffer_ext fun k hk => not_not.1 (mt (h.cell k hk).1 (hP k hk)), Bool.eq_false_of_not_eq_true fun hhit => ?_⟩
  obtain hfalse | ⟨k, hk, -, hmem⟩ := h.hit.1 hhit
  · cases hfalse
  · exact hP k hk hmem

/-- A sprite without rows covers no cell, and one drawn from screen row 32 or below covers none of the screen. -/
theorem notMem_spriteCells {vx vy : Nat} {sprite : List Byte} (h : sprite = [] ∨ 32 ≤ vy) {k : Nat} (hk : k < Config.fbCells) :
    k ∉ spriteCells vx vy sprite := by
  obtain rfl | hvy := h
  · rw [spriteCells_nil]; exact Set.notMem_empty k
  · rintro ⟨row, b, -, col, -, -, rfl⟩
    simp only [Config.fbWidth, Config.fbCells] at hk
    omega

/-- Settles O16: the sprite covers no cell of the screen. -/
theorem drawWithNothingVisible : Obligations.DrawWithNothingVisible := by
  intro x y n s t hnothing hin hx
  obtain ⟨sprite, d, hsprite, hd, rfl⟩ := exists_draw hin hx
  have hempty : sprite = [] ∨ 32 ≤ (s.getV y).toNat :=
    hnothing.imp_left fun hn => List.length_eq_zero_iff.1 ((readBlock_spec hsprite).1.trans hn)
  obtain ⟨hfb, hhit⟩ := hd.invisible fun k hk => notMem_spriteCells hempty hk
  refine ⟨hfb, ?_, rfl, rfl, rfl⟩
  rw [getV_vF_afterDraw, hhit]; rfl

/-! ## Blocks of memory (44_index_memory.md) -/

/-- Settles O24: the block load reads the bytes that O22 says the block store left. -/
theorem blockStoreThenLoadRestoresRegisters : Obligations.BlockStoreThenLoadRestoresRegisters := by
  intro x r s t u w hwf hin hstore hmem hi hload hr
  obtain ⟨t', ht', hstored, -⟩ := (storeRegisterBlock x s hwf).1 hin
  obtain ⟨w', hw', hloaded, -⟩ := (loadRegisterBlock x u).1 (hi ▸ hin)
  cases ht'.symm.trans hstore
  cases hw'.symm.trans hload
  exact Option.some.inj (by rw [← hloaded r hr, hmem, hi, hstored r hr])

/-- The table of stored bytes is that of the block written at `I`: the digits. -/
theorem storedByte_ldB (s : State) (x : Reg) (a : Nat) : storedByte s (.ldB x) a =
    if s.i.toNat ≤ a ∧ a < s.i.toNat + (bcdDigits (s.getV x)).length then (bcdDigits (s.getV x))[a - s.i.toNat]? else none := by
  have hlen := length_bcdDigits (s.getV x)
  rw [storedByte]
  by_cases ha : s.i.toNat ≤ a ∧ a < s.i.toNat + (bcdDigits (s.getV x)).length
  · obtain ⟨j, rfl⟩ := Nat.exists_eq_add_of_le ha.1
    rw [if_pos ha, Nat.add_sub_cancel_left]
    obtain rfl | rfl | rfl : j = 0 ∨ j = 1 ∨ j = 2 := by omega
    all_goals simp [bcdDigits]
  · rw [if_neg ha, if_neg (by omega), if_neg (by omega), if_neg (by omega)]

/-- The table of stored bytes is that of the block written at `I`: the registers. -/
theorem storedByte_storeRegs (s : State) (x : Reg) (a : Nat) : storedByte s (.storeRegs x) a =
    if s.i.toNat ≤ a ∧ a < s.i.toNat + (s.regBlock x).length then (s.regBlock x)[a - s.i.toNat]? else none := by
  simp only [storedByte, length_regBlock]
  refine if_ctx_congr (by omega) (fun ha => ?_) (fun _ => rfl)
  have hx := x.isLt
  have hlt : a - s.i.toNat < 16 := by omega
  have hle : Fin.ofNat 16 (a - s.i.toNat) ≤ x := by
    rw [Fin.le_def, Fin.val_ofNat, Nat.mod_eq_of_lt hlt]; omega
  have hread := getElem?_regBlock s x (Fin.ofNat 16 (a - s.i.toNat))
  rw [if_pos hle, Fin.val_ofNat, Nat.mod_eq_of_lt hlt] at hread
  exact hread.symm

/-- After a block was written, an address reads as the block's byte for it, if there is one, and else as before. -/
theorem read_writeBlock {m m' : Memory} {a : Nat} {bs : List Byte} (hw : m.wf = true) (h : m.writeBlock a bs = some m') (k : Nat) :
    m'.read k = (if a ≤ k ∧ k < a + bs.length then bs[k - a]? else none).or (m.read k) := by
  obtain ⟨-, -, hread⟩ := writeBlock_spec hw h
  rw [hread]
  split
  · rw [List.getElem?_eq_getElem (by omega), Option.some_or]
  · rw [Option.none_or]

/-- The step of a fetched instruction is its execute phase and the tick. -/
theorem exec_of_step {i : Instr} {s t : State} (hf : fetch s = some (encode i)) (h : step s = .next t) :
    ∃ u, exec i (beforeExec s) = .next u ∧ t = afterExec u := by
  obtain ⟨hpc, -⟩ | ⟨w, hf', hd, -⟩ | ⟨w, j, u, hf', hd, hx, rfl⟩ := step_next h
  · exact absurd (pc_le_of_fetch hf) (Nat.not_le.2 hpc)
  all_goals
    obtain rfl : encode i = w := Option.some.inj (hf.symm.trans hf')
    rw [decodeWord_encode] at hd
    cases hd
  exact ⟨u, hx, rfl⟩

/-- What a storing instruction that completes leaves: `PC` 2 further, and memory with the bytes of the table (20_memory.md R52). -/
theorem completed_store {i : Instr} {s u : State} (hw : s.mem.wf = true) (hi : ∃ x, i = .ldB x ∨ i = .storeRegs x)
    (hc : faultCause s i = none) (hx : exec i s = .next u) :
    u.pc = s.pc + 2 ∧ ∀ a, u.mem.read a = (storedByte s i a).or (s.mem.read a) := by
  obtain ⟨x, rfl | rfl⟩ := hi
  · obtain ⟨m, hm, rfl⟩ := completed_ldB hc hx
    exact ⟨rfl, fun a => storedByte_ldB s x a ▸ read_writeBlock hw hm a⟩
  · obtain ⟨m, hm, rfl⟩ := completed_storeRegs hc hx
    exact ⟨rfl, fun a => storedByte_storeRegs s x a ▸ read_writeBlock hw hm a⟩

theorem storedByte_beforeExec (s : State) (i : Instr) (a : Nat) : storedByte (beforeExec s) i a = storedByte s i a := by
  cases i <;> rfl

/-- Settles O25: the two bytes that the fetch reads, each by the memory after the store. -/
theorem nextFetchSeesTheStore : Obligations.NextFetchSeesTheStore := by
  intro i s t hw hi hf hc hstep
  obtain ⟨v, hx, rfl⟩ := exec_of_step hf hstep
  obtain ⟨hpc, hread⟩ := completed_store (s := beforeExec s) hw hi ((faultCause_beforeExec s i).trans hc) hx
  refine ⟨hpc, fun u hmem hle => ?_⟩
  obtain ⟨w, hfetch⟩ := fetch_of_pc_le hle
  obtain ⟨hi, lo, hhi, hlo, rfl⟩ := (fetch_eq_some u w).1 hfetch
  simp only [hmem, afterExec_mem, hread, storedByte_beforeExec, beforeExec_mem] at hhi hlo
  exact ⟨hi, lo, hfetch, hhi.symm, hlo.symm⟩

end Sys2Proof.Machine
end

section
/-! The inputs of a step: the random byte (10_state.md R25), the keys that `LD Vx,K` waits for (43_keys_timers.md R133), and a machine
that idles for any number of steps. -/

namespace Sys2Proof.Machine

/-- Settles O6: one register write. -/
theorem randomByteUnderMask : Obligations.RandomByteUnderMask := fun x kk s => done_setV s x (Config.rnd s.stepNo &&& kk)

/-! ## The key wait (R133) -/

theorem mem_pressedKeys (keys : BitVec 16) (k : Nat) : k ∈ pressedKeys keys ↔ k < 16 ∧ keys.getLsbD k = true := by
  simp [pressedKeys]

theorem pressedKeys_eq_nil_iff (keys : BitVec 16) : pressedKeys keys = [] ↔ keys = 0 := by
  constructor
  · intro h
    refine BitVec.eq_of_getLsbD_eq fun k hk => ?_
    have hk' : k ∉ pressedKeys keys := h ▸ List.not_mem_nil
    simpa [mem_pressedKeys, hk] using hk'
  · rintro rfl
    simp [pressedKeys]

/-- Which key is picked is a draw, but it is a pressed one. -/
theorem mem_pressedKeys_of_pickKey {n : Nat} {keys : BitVec 16} {k : Nat} (h : pickKey n keys = some k) : k ∈ pressedKeys keys := by
  unfold pickKey at h
  split at h
  case h_1 => cases h
  case h_2 hk => cases h; rw [hk]; exact List.mem_singleton_self _
  case h_3 => exact List.mem_of_getElem? h

theorem pickKey_eq_none_iff (n : Nat) (keys : BitVec 16) : pickKey n keys = none ↔ keys = 0 := by
  rw [← pressedKeys_eq_nil_iff]
  unfold pickKey
  split
  case h_1 hk => simp [hk]
  case h_2 hk => simp [hk]
  case h_3 hnil _ =>
    refine iff_of_false (fun h => ?_) hnil
    have hpos : 0 < (pressedKeys keys).length := List.length_pos_iff.2 hnil
    exact Nat.not_le.2 (Nat.mod_lt _ hpos) (List.getElem?_eq_none_iff.1 h)

theorem exec_ldVxK_of_pickKey {x : Reg} {s : State} {k : Nat} (h : pickKey s.stepNo s.keys = some k) :
    exec (.ldVxK x) s = done (s.setV x (BitVec.ofNat 8 k)) := by
  simp only [exec, execLdVxK, h, done]

theorem exec_ldVxK_of_no_key {x : Reg} {s : State} (h : s.keys = 0) : exec (.ldVxK x) s = .next s := by
  simp only [exec, execLdVxK, (pickKey_eq_none_iff ..).2 h]

/-- Settles O19: the picked key is pressed, and if one key only is pressed there is no other to pick. -/
theorem keyWaitReportsAPressedKey : Obligations.KeyWaitReportsAPressedKey := by
  intro x s
  refine ⟨fun hkeys => ?_, exec_ldVxK_of_no_key⟩
  obtain ⟨k, hpick⟩ := Option.ne_none_iff_exists'.1 (mt (pickKey_eq_none_iff s.stepNo s.keys).1 hkeys)
  obtain ⟨hlt, hdown⟩ := (mem_pressedKeys ..).1 (mem_pressedKeys_of_pickKey hpick)
  obtain ⟨t, ht, hval, hframe⟩ := done_setV s x (BitVec.ofNat 8 k)
  refine ⟨t, k, (exec_ldVxK_of_pickKey hpick).trans ht, hlt, hdown, ?_, fun j hj => hj k hlt hdown, hframe⟩
  rw [hval, BitVec.toNat_ofNat, Nat.mod_eq_of_lt (by omega)]

/-! ## Steps -/

/-- Settles O32: the fetch reads the two bytes, and the decoder on bytes is the decoder on their word. -/
theorem stepRunsTheDecodedInstruction : Obligations.StepRunsTheDecodedInstruction := by
  intro s hi lo i hhi hlo hdec _
  have hf : fetch s = some (wordOfBytes hi lo) := (fetch_eq_some ..).2 ⟨hi, lo, hhi, hlo, rfl⟩
  have hd : decodeWord (wordOfBytes hi lo) = some i := by
    rw [decodeBytes] at hdec
    split at hdec <;> cases hdec
    assumption
  simp only [step, hf, executeWord, hd]
  rfl

theorem Same.trans {s t u : State} {k : Item} (h : Same s t k) (h' : Same t u k) : Same s u k := by
  cases k
  case mem | v | stack | fb => exact fun a => (h' a).trans (h a)
  all_goals exact Eq.trans h' h

theorem SameExcept.trans {s t u : State} {ks : List Item} (h : SameExcept ks s t) (h' : SameExcept ks t u) : SameExcept ks s u :=
  fun k hk => (h k hk).trans (h' k hk)

/-- The machine waits for a key with none pressed, or jumps to where it is. -/
def Idle (s : State) : Prop :=
  ((∃ x, fetch s = some (encode (.ldVxK x))) ∧ s.keys = 0) ∨
    ∃ nnn : Addr12, fetch s = some (encode (.jp nnn)) ∧ nnn.toNat = s.pc.toNat

/-- In an idle step the execute phase changes nothing. -/
theorem step_of_idle {s : State} (h : Idle s) : step s = .next (afterExec (beforeExec s)) := by
  obtain ⟨⟨x, hf⟩, hkeys⟩ | ⟨nnn, hf, hpc⟩ := h
  · exact step_of_exec hf (decodeWord_encode _) (exec_ldVxK_of_no_key hkeys)
  · refine step_of_exec hf (decodeWord_encode _) ?_
    have htarget : zext16 nnn = (beforeExec s).pc := BitVec.eq_of_toNat_eq ((toNat_zext16 nnn).trans hpc)
    simp only [exec, execJp, htarget]

/-- A tick changes nothing that makes a machine idle. -/
theorem idle_after_tick {s : State} (h : Idle s) : Idle (afterExec (beforeExec s)) := h

theorem sameExcept_idleStep (s : State) :
    SameExcept [.dt, .st, .soundNeeded, .out, .stepNo] s (afterExec (beforeExec s)) := by
  intro k hk
  cases k <;> simp [Same, State.getV] at hk ⊢

/-- Settles O39: by induction on the number of steps, each of which is a tick that leaves the machine idle. -/
theorem idleStepsOnlyTickTimers : Obligations.IdleStepsOnlyTickTimers := by
  intro s k hidle
  induction k generalizing s with
  | zero => exact ⟨s, rfl, rfl, rfl, by simp; omega, sameExcept_refl _ s⟩
  | succ k ih =>
    obtain ⟨t, hrun, hdt, hst, hsound, hsame⟩ := ih _ (idle_after_tick hidle)
    have hdt1 : (afterExec (beforeExec s)).dt.toNat = s.dt.toNat - 1 := toNat_countDown s.dt
    have hst1 : (afterExec (beforeExec s)).st.toNat = s.st.toNat - 1 := toNat_countDown s.st
    have hsound1 : (afterExec (beforeExec s)).soundNeeded = true ↔ s.soundNeeded = true ∨ s.st.toNat = 1 := by
      simp [← BitVec.toNat_inj]
    refine ⟨t, (run_succ_of_step core (step_of_idle hidle) k).trans hrun, by omega, by omega, ?_, (sameExcept_idleStep s).trans hsame⟩
    rw [hsound, hsound1, hst1, or_assoc]
    exact or_congr_right (by omega)

end Sys2Proof.Machine
end

section
/-! The canonical form of memory (20_memory.md section 1) is one form: what a memory reads as determines the cells that it lists. -/

namespace Sys2Proof.Machine

/-- In canonical form what an address reads as says whether it is listed and with which byte. -/
theorem findCell_eq_of_getD_eq {initial : Nat → Byte} {lo : Nat} {cs cs' : List Host.Cell} (h : cellsWf initial lo cs = true)
    (h' : cellsWf initial lo cs' = true) {a : Nat} (heq : (findCell cs a).getD (initial a) = (findCell cs' a).getD (initial a)) :
    findCell cs a = findCell cs' a := by
  cases hf : findCell cs a with
  | none =>
    cases hf' : findCell cs' a with
    | none => rfl
    | some b => rw [hf, hf'] at heq; exact absurd heq.symm (findCell_ne_initial h' hf')
  | some b =>
    cases hf' : findCell cs' a with
    | none => rw [hf, hf'] at heq; exact absurd heq (findCell_ne_initial h hf)
    | some b' => rw [hf, hf'] at heq; exact congrArg some heq

theorem findCell_head (c : Host.Cell) (rest : List Host.Cell) : findCell (c :: rest) c.1 = some c.2 := if_pos rfl

/-- A listed address lies at or above the lowest one that the list may hold. -/
theorem le_of_findCell {initial : Nat → Byte} {lo a : Nat} {b : Byte} {cs : List Host.Cell} (h : cellsWf initial lo cs = true)
    (hf : findCell cs a = some b) : lo ≤ a :=
  Nat.le_of_not_lt fun hlt => Option.some_ne_none b (hf.symm.trans (findCell_below h hlt))

theorem cellsWf_from_head {initial : Nat → Byte} {lo : Nat} {c : Host.Cell} {rest : List Host.Cell}
    (h : cellsWf initial lo (c :: rest) = true) : cellsWf initial c.1 (c :: rest) = true :=
  (cellsWf_cons ..).2 ⟨Nat.le_refl _, ((cellsWf_cons ..).1 h).2⟩

/-- No address beyond memory is listed. -/
theorem findCell_of_memSize_le {initial : Nat → Byte} {lo a : Nat} {cs : List Host.Cell} (h : cellsWf initial lo cs = true)
    (ha : Config.memSize ≤ a) : findCell cs a = none := by
  induction cs generalizing lo with
  | nil => rfl
  | cons c rest ih =>
    obtain ⟨-, hlt, -, hrest⟩ := (cellsWf_cons ..).1 h
    rw [findCell, if_neg (by omega), ih hrest]

/-- Lists in canonical form that list the same bytes are equal: both begin with the lowest address listed. -/
theorem cells_ext {initial : Nat → Byte} {lo : Nat} {cs cs' : List Host.Cell} (h : cellsWf initial lo cs = true)
    (h' : cellsWf initial lo cs' = true) (heq : ∀ a, findCell cs a = findCell cs' a) : cs = cs' := by
  induction cs generalizing lo cs' with
  | nil =>
    cases cs' with
    | nil => rfl
    | cons c' rest' => exact absurd ((heq c'.1).trans (findCell_head c' rest')) nofun
  | cons c rest ih =>
    cases cs' with
    | nil => exact absurd ((heq c.1).symm.trans (findCell_head c rest)) nofun
    | cons c' rest' =>
      obtain ⟨-, -, -, hrest⟩ := (cellsWf_cons ..).1 h
      obtain ⟨-, -, -, hrest'⟩ := (cellsWf_cons ..).1 h'
      have hhead : findCell (c' :: rest') c.1 = some c.2 := (heq c.1).symm.trans (findCell_head c rest)
      have hhead' : findCell (c :: rest) c'.1 = some c'.2 := (heq c'.1).trans (findCell_head c' rest')
      have haddr : c.1 = c'.1 :=
        Nat.le_antisymm (le_of_findCell (cellsWf_from_head h) hhead') (le_of_findCell (cellsWf_from_head h') hhead)
      have hbyte : c.2 = c'.2 := Option.some.inj (by rw [← hhead, haddr, findCell_head])
      obtain rfl : c = c' := Prod.ext haddr hbyte
      refine congrArg (c :: ·) (ih hrest hrest' fun a => ?_)
      by_cases ha : c.1 = a
      · have hlt : a < c.1 + 1 := ha ▸ Nat.lt_succ_self c.1
        rw [findCell_below hrest hlt, findCell_below hrest' hlt]
      · simpa [findCell, ha] using heq a

/-- Settles O55: equal reads list the same bytes below 0x1000, and no address from there up is listed. -/
theorem equalReadsMeanEqualMemories : Obligations.EqualReadsMeanEqualMemories := by
  rintro ⟨glyphs, cells⟩ ⟨_, cells'⟩ hw hw' rfl hread
  refine congrArg (Memory.mk glyphs) (cells_ext hw hw' fun a => ?_)
  rcases Nat.lt_or_ge a Config.memSize with ha | ha
  · refine findCell_eq_of_getD_eq hw hw' (Option.some.inj ?_)
    have h := hread a
    rw [Memory.read, Memory.read, if_pos ha, if_pos ha] at h
    exact h
  · rw [findCell_of_memSize_le hw ha, findCell_of_memSize_le hw' ha]

end Sys2Proof.Machine
end
